-- ==== Sys2Proof/Word.lean ====
section
/-! DEFINITION. The two word types of the block (spec R12, R60, R10).

A byte is a cell of FLASH, the EEPROM, FRAME and PBUF.
A word is a 16-bit frame field, flash address, host instruction word or entry pointer. -/

namespace Sys2Proof

/-- One 8-bit byte (R60). -/
abbrev Byte := BitVec 8

/-- One 16-bit word: an address of ADDR_WIDTH bits, a two-byte frame field, a host word (R10, R14). -/
abbrev Word := BitVec 16

/-- The FRAME buffer: FRAMESIZE = PAGESIZE + 7 = 71 bytes (R8, R25). -/
abbrev FrameBuf := Vector Byte 71

/-- One flash page: PAGESIZE = 64 bytes (R8, R66). -/
abbrev Page := Vector Byte 64

end Sys2Proof
end

