-- ==== Sys2Proof/Config.lean ====
section
/-! DEFINITION. What is fixed for one device (R8 to R10), what the outside world supplies at each tick (R11, R33),
and the values the spec leaves free.

The parameters the spec calls OPEN are a plain record that State carries and no step changes, so every statement about a
state is a statement about every configuration.
The free values are constants without a body: nothing can evaluate them, and a claim holds whatever they are. -/

namespace Sys2Proof

/-- The construction-time parameters (R9, R10, R36; decisions D11, D12, D14, D17, D21).
Their constraints are `Machine.ParamsValid` (Machine/HostWord.lean). -/
structure Params where
  /-- DEVICE_FLASH_SIZE, in bytes (R9). -/
  flashSize : Nat
  /-- BOOTLOADER_START, the first byte of the Bootloader Region (R9). -/
  blStart : Nat
  /-- BOOTLOADER_ENTRY, the byte address of the bootloader's entry point (R10). -/
  blEntry : Nat
  /-- BOOT_THRESHOLD, the number of polls before fall-through (R10, R283). -/
  bootThreshold : Nat
  /-- ERASED_BYTE, what a completed erase leaves (R10, R65). -/
  erasedByte : Byte
  deriving DecidableEq, Repr, Inhabited

/-- The example configuration of 95_test_vectors.md (R9's example column).
DESIGN CHOICE (unsafe, log entry 1): the spec fixes no value; only `State.reset` and `decodeTableWord` use these. -/
def Params.example8k : Params :=
  { flashSize := 8192, blStart := 0x1C00, blEntry := 0x1C00, bootThreshold := 3, erasedByte := 0xFF }

/-- What reaches the block at one tick from outside, beside the line and flag samples. -/
inductive Event where
  /-- Nothing: the tick runs the active rule. -/
  | quiet
  /-- An external reset or a power cycle (R257, R280, R287). -/
  | reset
  /-- The CPU, running something else, transfers control to BOOTLOADER_ENTRY (R280, D33). -/
  | entry
  /-- The CPU is asked to take an interrupt (R256, U9). -/
  | interrupt
  deriving DecidableEq, Repr, Inhabited

/-- The environment's draws at one tick (R11, R33). -/
structure Inputs where
  /-- `rx_in[k]`, the line level. -/
  rxIn : Bool
  /-- `boot_in[k]`, the boot-check level. -/
  bootIn : Bool
  /-- `fl_busy[k]`, the flash controller's busy flag. -/
  flBusy : Bool
  /-- `ee_busy[k]`, the EEPROM collaborator's busy flag. -/
  eeBusy : Bool
  /-- The CPU's GIE at the moment a reset or an entry starts the block (R31 "CPU's value at entry", R281). -/
  gieEntry : Bool
  /-- `draw_byte()` of R231: a payload byte past the sixty-fourth (U5; free, safe, log entry 27). -/
  drawByte : Byte
  /-- What else happens at this tick. -/
  event : Event
  deriving DecidableEq, Repr, Inhabited

/-- A tick at which nothing happens and every sample is 0. -/
def Inputs.quiet : Inputs :=
  { rxIn := false, bootIn := false, flBusy := false, eeBusy := false, gieEntry := false, drawByte := 0, event := .quiet }

/-- Free: the line level at tick k (R11). -/
opaque Config.rxIn : Nat → Bool
/-- Free: the boot-check level at tick k (R11). -/
opaque Config.bootIn : Nat → Bool
/-- Free: the flash busy flag at tick k (R11, U8). -/
opaque Config.flBusy : Nat → Bool
/-- Free: the EEPROM busy flag at tick k (R11, U8). -/
opaque Config.eeBusy : Nat → Bool
/-- Free: the CPU's GIE, should a reset or an entry come at tick k (R31, R281). -/
opaque Config.gieEntry : Nat → Bool
/-- Free: the byte read past the payload at tick k (R231, U5, D10). -/
opaque Config.drawByte : Nat → Byte
/-- Free: what else happens at tick k (R257, U9). -/
opaque Config.event : Nat → Event
/-- Free: byte a of a page between a flash command and its completion, seen at tick k (R64, U7). -/
opaque Config.unsettledFlash : Nat → Nat → Byte
/-- Free: the EEPROM byte between a write's issue and its completion, seen at tick k (R68). -/
opaque Config.unsettledEeprom : Nat → Byte
/-- Free: byte a of a page whose operation a reset at tick k cut off (R287, U6). -/
opaque Config.lostFlash : Nat → Nat → Byte
/-- Free: the EEPROM byte whose write a reset at tick k cut off (R287, U6). -/
opaque Config.lostEeprom : Nat → Byte

/-- The draws of tick k where no script of inputs stands in the state (R11: "draws, one per tick, under no law"). -/
def Config.inputsAt (k : Nat) : Inputs :=
  { rxIn := Config.rxIn k, bootIn := Config.bootIn k, flBusy := Config.flBusy k, eeBusy := Config.eeBusy k,
    gieEntry := Config.gieEntry k, drawByte := Config.drawByte k, event := Config.event k }

end Sys2Proof
end

