-- ==== Sys2Proof/Machine/Bits.lean ====
section
/-! DEFINITION. Byte order, page geometry and single-bit writes (R12, R14, R63, R66, R95, R133). -/

namespace Sys2Proof.Machine

/-- LE16(b0, b1) = b1 : b0, the first byte least significant (R14). -/
def le16 (b0 b1 : Byte) : Word := b1 ++ b0

/-- w[7:0], the byte at the lower address (R63). -/
def loByte (w : Word) : Byte := w.extractLsb' 0 8

/-- w[15:8], the byte at the higher address (R63). -/
def hiByte (w : Word) : Byte := w.extractLsb' 8 8

/-- pagebase(a) = a - (a mod PAGESIZE) (R66, R175). -/
def pageBase (a : Word) : Word := a - a % 64#16

/-- page_addr(n) = (n * PAGESIZE) mod 2^16 (R95, R232). -/
def pageAddr (n : Word) : Word := n * 64#16

/-- `v` with bit `i` set to `b`; the other bits keep their values (R133). -/
def setBit (v : Byte) (i : Nat) (b : Bool) : Byte :=
  if b then v ||| (1#8 <<< i) else v &&& ~~~(1#8 <<< i)

/-- A page buffer with bytes 0 and 1 replaced by the two bytes of a host word (R63, R190). -/
def putWord0 (b : Page) (w : Word) : Page := (b.set 0 (loByte w)).set 1 (hiByte w)

/-- The host word a page starts with, LE16(byte 0, byte 1) (R103, R190). -/
def word0 (b : Page) : Word := le16 b[0] b[1]

end Sys2Proof.Machine
end

