-- ==== Sys2Proof/Machine/HostWord.lean ====
section
/-! DEFINITION. The host's relative-jump word and the constraints on the parameters (R9, R10, R104 to R108, D14).

The encoding is the spec's own default, which it marks as supplied from general knowledge (93 G3 to G6).
PRESUMED (unsafe, log entry 24). -/

namespace Sys2Proof.Machine

/-- IS_RJMP(w) = (w[15:12] == 0b1100) (R106). -/
def isRjmp (w : Word) : Bool := w.extractLsb' 12 4 == 0b1100#4

/-- FLASH_WORDS = DEVICE_FLASH_SIZE / 2 (R105). -/
def flashWords (p : Params) : Nat := p.flashSize / 2

/-- RJMP_TARGET(w, n) = (n + 1 + sext_12(w[11:0])) mod FLASH_WORDS (R107). -/
def rjmpTarget (p : Params) (w : Word) (n : Nat) : Word :=
  BitVec.ofInt 16 (((n : Int) + 1 + (w.extractLsb' 0 12).toInt) % (flashWords p : Int))

/-- The relative-jump word with offset field k (R104). -/
def rjmpWord (k : BitVec 12) : Word := 0b1100#4 ++ k

/-- ENCODE_RJMP(n, t) = 0xC000 | ((t - n - 1) mod 4096) (R108). -/
def encodeRjmp (n t : Nat) : Word :=
  0xC000#16 ||| BitVec.ofInt 16 (((t : Int) - n - 1) % 4096)

/-- ENTRY_JUMP_WORD = ENCODE_RJMP(0, BOOTLOADER_ENTRY / 2) (R108). -/
def entryJumpWord (p : Params) : Word := encodeRjmp 0 (p.blEntry / 2)

/-- The word address of the bootloader's entry point, BOOTLOADER_ENTRY / 2 (R108, R280). -/
def entryWordAddr (p : Params) : Word := BitVec.ofNat 16 (p.blEntry / 2)

/-- R280's test: the word is a relative jump whose target at word address 0 is the bootloader entry. -/
def reachesEntry (p : Params) (w : Word) : Bool :=
  isRjmp w && rjmpTarget p w 0 == entryWordAddr p

/-- The parameter constraints (R9, R10, D14); a configuration outside them is refused (U15; safe, log entry 19). -/
abbrev ParamsValid (p : Params) : Prop :=
  p.flashSize % 64 = 0 ∧ p.flashSize ≤ 65536
    ∧ p.blStart % 64 = 0 ∧ 128 ≤ p.blStart ∧ p.blStart + 64 ≤ p.flashSize
    ∧ p.blEntry % 2 = 0 ∧ p.blStart ≤ p.blEntry ∧ p.blEntry < p.flashSize
    ∧ rjmpTarget p (entryJumpWord p) 0 = entryWordAddr p

end Sys2Proof.Machine
end

