-- ==== Sys2Proof/Syntax.lean ====
section
/-! DEFINITION. The block's instructions as syntax: one constructor per row of spec/opcode_table.json.

The block has no instruction set; its instructions are the frame commands, and the one word of the host's instruction
set that it recognises and writes (R2, R96, R106, R108). -/

namespace Sys2Proof

/-- The fields every frame carries after its command byte, whatever the command (R94, R95). -/
structure Fields where
  /-- LE16(FRAME[1], FRAME[2]). -/
  pageNumber : Word
  /-- LE16(FRAME[3], FRAME[4]). -/
  length : Word
  /-- LE16(FRAME[5], FRAME[6]); present and never checked (R100). -/
  checksum : Word
  /-- PAYLOAD[j] = FRAME[7 + j]. -/
  payload : Page
  deriving DecidableEq, Repr

/-- The instructions (R96, R106, R108).
A frame command holds every field of its frame, also those it ignores (R99).
An unrecognised command holds the bits of CMD its table row leaves open (R97, R229). -/
inductive Instr where
  /-- CMD = 0x00 (R223). -/
  | cmdNone (f : Fields)
  /-- CMD = 0x01 (R224). -/
  | cmdTest (f : Fields)
  /-- CMD = 0x02 (R225). -/
  | cmdProgram (f : Fields)
  /-- CMD = 0x03 (R226). -/
  | cmdRun (f : Fields)
  /-- CMD = 0x04 (R227). -/
  | cmdWriteEeprom (f : Fields)
  /-- CMD = 0x05 (R228). -/
  | cmdExit (f : Fields)
  /-- CMD in 0x06..0x07 (R229). -/
  | cmd06To07 (b : BitVec 1) (f : Fields)
  /-- CMD in 0x08..0x0F (R229). -/
  | cmd08To0F (b : BitVec 3) (f : Fields)
  /-- CMD in 0x10..0x1F (R229). -/
  | cmd10To1F (b : BitVec 4) (f : Fields)
  /-- CMD in 0x20..0x3F (R229). -/
  | cmd20To3F (b : BitVec 5) (f : Fields)
  /-- CMD in 0x40..0x7F (R229). -/
  | cmd40To7F (b : BitVec 6) (f : Fields)
  /-- CMD in 0x80..0xFF (R229). -/
  | cmd80ToFF (b : BitVec 7) (f : Fields)
  /-- A relative jump with offset k as host word 0, other than ENTRY_JUMP_WORD itself (R104, R106). -/
  | rjmp (k : BitVec 12)
  /-- ENTRY_JUMP_WORD as host word 0, the jump to the bootloader entry that RVI writes (R108). -/
  | entryJumpWord
  deriving DecidableEq, Repr

/-- The two formats of the opcode table ("frame" and "host_word_16"). -/
inductive Format where
  /-- 71 bytes received over the line; byte 0 selects the command (R94, R96). -/
  | frame
  /-- The 16-bit word a page 0 starts with (R103, R104). -/
  | hostWord
  deriving DecidableEq, Repr

/-- The format an instruction is encoded in. -/
def Instr.format : Instr → Format
  | .cmdNone _ => .frame
  | .cmdTest _ => .frame
  | .cmdProgram _ => .frame
  | .cmdRun _ => .frame
  | .cmdWriteEeprom _ => .frame
  | .cmdExit _ => .frame
  | .cmd06To07 _ _ => .frame
  | .cmd08To0F _ _ => .frame
  | .cmd10To1F _ _ => .frame
  | .cmd20To3F _ _ => .frame
  | .cmd40To7F _ _ => .frame
  | .cmd80ToFF _ _ => .frame
  | .rjmp _ => .hostWord
  | .entryJumpWord => .hostWord

end Sys2Proof
end

