-- ==== Sys2Proof/WellFormed.lean ====
section
/-! DEFINITION. Which instruction terms stand for encodings of their own.

Every value of every field of a frame command is an encoding (R97, R101: no command value is illegal), and the field
widths are in the types.
The one overlap of the opcode table is between its two host-word rows: ENTRY_JUMP_WORD is itself a relative jump, and it
is written as `entryJumpWord`. -/

namespace Sys2Proof

/-- The instruction is the name of its own encoding under the parameters p: `rjmp k` does not spell ENTRY_JUMP_WORD. -/
def Instr.WellFormed (p : Params) : Instr → Bool
  | .cmdNone _ => true
  | .cmdTest _ => true
  | .cmdProgram _ => true
  | .cmdRun _ => true
  | .cmdWriteEeprom _ => true
  | .cmdExit _ => true
  | .cmd06To07 _ _ => true
  | .cmd08To0F _ _ => true
  | .cmd10To1F _ _ => true
  | .cmd20To3F _ _ => true
  | .cmd40To7F _ _ => true
  | .cmd80ToFF _ _ => true
  | .rjmp k => Machine.rjmpWord k != Machine.entryJumpWord p
  | .entryJumpWord => true

end Sys2Proof
end

