-- ==== Sys2Proof/Decode.lean ====
section
/-! DEFINITION. The decoder, total on any bytes, and the encoder (R94 to R101, R103 to R108). -/

namespace Sys2Proof

open Machine

/-- Why bytes are no instruction of a format. -/
inductive DecodeError where
  /-- The number of bytes is not the format's: 71 for a frame (R98), 2 for a host word (R104). -/
  | wrongLength (n : Nat)
  /-- The host word is not a relative jump: its bits 15..12 are not 0b1100 (R106). -/
  | notRelativeJump (w : Word)
  deriving DecidableEq, Repr

/-- One frame row of the opcode table: which bits of CMD are fixed, and at what value. -/
structure CmdRow where
  /-- The row's "mask". -/
  mask : Byte
  /-- The row's "match". -/
  pattern : Byte
  deriving DecidableEq, Repr

/-- The row selects the command byte. -/
def CmdRow.selects (r : CmdRow) (c : Byte) : Bool := c &&& r.mask == r.pattern

/-- The frame rows of spec/opcode_table.json in the table's order (R96, R97). -/
def cmdRows : List CmdRow :=
  [⟨0xFF, 0x00⟩, ⟨0xFF, 0x01⟩, ⟨0xFF, 0x02⟩, ⟨0xFF, 0x03⟩, ⟨0xFF, 0x04⟩, ⟨0xFF, 0x05⟩] ++
  [⟨0xFE, 0x06⟩, ⟨0xF8, 0x08⟩, ⟨0xF0, 0x10⟩, ⟨0xE0, 0x20⟩, ⟨0xC0, 0x40⟩, ⟨0x80, 0x80⟩]

/-- The row of the opcode table an instruction belongs to, where the table gives it a command byte (R96, R97). -/
def Instr.cmdRow : Instr → Option CmdRow
  | .cmdNone _ => some ⟨0xFF, 0x00⟩
  | .cmdTest _ => some ⟨0xFF, 0x01⟩
  | .cmdProgram _ => some ⟨0xFF, 0x02⟩
  | .cmdRun _ => some ⟨0xFF, 0x03⟩
  | .cmdWriteEeprom _ => some ⟨0xFF, 0x04⟩
  | .cmdExit _ => some ⟨0xFF, 0x05⟩
  | .cmd06To07 _ _ => some ⟨0xFE, 0x06⟩
  | .cmd08To0F _ _ => some ⟨0xF8, 0x08⟩
  | .cmd10To1F _ _ => some ⟨0xF0, 0x10⟩
  | .cmd20To3F _ _ => some ⟨0xE0, 0x20⟩
  | .cmd40To7F _ _ => some ⟨0xC0, 0x40⟩
  | .cmd80ToFF _ _ => some ⟨0x80, 0x80⟩
  | .rjmp _ => none
  | .entryJumpWord => none

/-- The fields of an instruction that is a frame command (R94, R95). -/
def Instr.fields : Instr → Option Fields
  | .cmdNone f => some f
  | .cmdTest f => some f
  | .cmdProgram f => some f
  | .cmdRun f => some f
  | .cmdWriteEeprom f => some f
  | .cmdExit f => some f
  | .cmd06To07 _ f => some f
  | .cmd08To0F _ f => some f
  | .cmd10To1F _ f => some f
  | .cmd20To3F _ f => some f
  | .cmd40To7F _ f => some f
  | .cmd80ToFF _ f => some f
  | .rjmp _ => none
  | .entryJumpWord => none

/-- Operand assembly (R95): every field is unsigned, two-byte fields low byte first. -/
def decodeFields (fr : FrameBuf) : Fields :=
  { pageNumber := le16 fr[1] fr[2]
    length := le16 fr[3] fr[4]
    checksum := le16 fr[5] fr[6]
    payload := Vector.ofFn fun j : Fin 64 => fr[7 + j.val] }

/-- The command a frame's byte 0 selects, by all 8 bits of it and by no other byte (R96, R101, R222). -/
def decodeCmd (c : Byte) (f : Fields) : Instr :=
  if c = 0x00 then .cmdNone f
  else if c = 0x01 then .cmdTest f
  else if c = 0x02 then .cmdProgram f
  else if c = 0x03 then .cmdRun f
  else if c = 0x04 then .cmdWriteEeprom f
  else if c = 0x05 then .cmdExit f
  else if c &&& 0xF8 = 0x08 then .cmd08To0F (c.extractLsb' 0 3) f
  else if c &&& 0xF0 = 0x10 then .cmd10To1F (c.extractLsb' 0 4) f
  else if c &&& 0xE0 = 0x20 then .cmd20To3F (c.extractLsb' 0 5) f
  else if c &&& 0xC0 = 0x40 then .cmd40To7F (c.extractLsb' 0 6) f
  else if c &&& 0x80 = 0x80 then .cmd80ToFF (c.extractLsb' 0 7) f
  else .cmd06To07 (c.extractLsb' 0 1) f

/-- Decoding of a frame is total (R97, R101). -/
def decodeFrame (fr : FrameBuf) : Instr := decodeCmd fr[0] (decodeFields fr)

/-- The reading of a host word at word address 0 (R103, R106, R108).
DEDUCED (safe, log entry 8): the table's row of the one word takes precedence over its row of all relative jumps. -/
def decodeHostWord (p : Params) (w : Word) : Except DecodeError Instr :=
  if w = Machine.entryJumpWord p then .ok .entryJumpWord
  else if isRjmp w then .ok (.rjmp (w.extractLsb' 0 12))
  else .error (.notRelativeJump w)

/-- The frame buffer a list of 71 bytes fills, byte i at offset i (R94). -/
def frameOfBytes (bs : List Byte) : Option FrameBuf :=
  if h : bs.length = 71 then some ⟨bs.toArray, by simpa using h⟩ else none

/-- The decoder over bytes: total, and a rejection says why (R98, R101, R104, R106). -/
def decode (p : Params) (fmt : Format) (bs : List Byte) : Except DecodeError Instr :=
  match fmt with
  | .frame =>
    match frameOfBytes bs with
    | some fr => .ok (decodeFrame fr)
    | none => .error (.wrongLength bs.length)
  | .hostWord =>
    match bs with
    | [b0, b1] => decodeHostWord p (le16 b0 b1)
    | _ => .error (.wrongLength bs.length)

/-- The 71 bytes of a frame with command byte c, in offset order (R94). -/
def encodeFields (c : Byte) (f : Fields) : List Byte :=
  [c, loByte f.pageNumber, hiByte f.pageNumber, loByte f.length, hiByte f.length,
   loByte f.checksum, hiByte f.checksum] ++ f.payload.toList

/-- The two bytes of a host word, low byte first (R63). -/
def wordBytes (w : Word) : List Byte := [loByte w, hiByte w]

/-- The bytes of an instruction, from the tables of R94, R96, R104 and R108. -/
def encode (p : Params) : Instr → List Byte
  | .cmdNone f => encodeFields 0x00 f
  | .cmdTest f => encodeFields 0x01 f
  | .cmdProgram f => encodeFields 0x02 f
  | .cmdRun f => encodeFields 0x03 f
  | .cmdWriteEeprom f => encodeFields 0x04 f
  | .cmdExit f => encodeFields 0x05 f
  | .cmd06To07 b f => encodeFields (0b0000011#7 ++ b) f
  | .cmd08To0F b f => encodeFields (0b00001#5 ++ b) f
  | .cmd10To1F b f => encodeFields (0b0001#4 ++ b) f
  | .cmd20To3F b f => encodeFields (0b001#3 ++ b) f
  | .cmd40To7F b f => encodeFields (0b01#2 ++ b) f
  | .cmd80ToFF b f => encodeFields (0b1#1 ++ b) f
  | .rjmp k => wordBytes (rjmpWord k)
  | .entryJumpWord => wordBytes (Machine.entryJumpWord p)

/-- The frame whose byte i is bits 8i+7..8i of w. -/
def frameOfNat (w : Nat) : FrameBuf := Vector.ofFn fun i : Fin 71 => BitVec.ofNat 8 (w >>> (8 * i.val))

/-- The format of a table row of nbits bits: the host words are the 16-bit rows, every other row fixes the command byte. -/
def formatOfWidth (nbits : Nat) : Format := if nbits = 16 then .hostWord else .frame

/-- The instruction the decoder reads from a table row's bits w, numbered as the table numbers them; the bits above
nbits are 0 (under the example configuration, whose ENTRY_JUMP_WORD the table shows, R108; DESIGN CHOICE, log entry
29). -/
def decodeTableWord (nbits w : Nat) : Option Instr :=
  match formatOfWidth nbits with
  | .frame => some (decodeFrame (frameOfNat (w % 2 ^ nbits)))
  | .hostWord => (decodeHostWord Params.example8k (BitVec.ofNat 16 w)).toOption

end Sys2Proof
end

