-- ==== Sys2Proof/Machine/State.lean ====
section
/-! DEFINITION. Everything the spec gives the block, as plain data (10_state.md), with the arrays it reaches through
ports, the operations their controllers have in progress, and the inputs still to come. -/

namespace Sys2Proof.Machine

/-- SEQ, the top-level state register (R20). -/
inductive Seq where
  | bootStart | bootPoll | receive | decode | program | eeprom | clear | exitNp | exitP | fatal | halted | bypassed
  deriving DecidableEq, Repr

/-- RX_STATE (R23). -/
inductive RxState where
  | waitE0 | cal | markDelay | markEdge | dataEdge | dataDelay
  deriving DecidableEq, Repr

/-- FPE_STATE (R26, R160). -/
inductive FpeState where
  | idle | enter | assemble | intercept | erase | eraseWait | write | writeWait | done
  deriving DecidableEq, Repr

/-- FPE_MODE (R26). -/
inductive FpeMode where
  | page | merge
  deriving DecidableEq, Repr

/-- EE_STATE (R29). -/
inductive EeState where
  | next | wait | issue
  deriving DecidableEq, Repr

/-- The events of the status output (R32). -/
inductive StatusEvent where
  | statusOn | statusOff | programOk | fatalBlink
  deriving DecidableEq, Repr

/-- The values of the fl_cmd port (R33). -/
inductive FlCmd where
  | none | erase | write
  deriving DecidableEq, Repr

/-- The operation the flash controller has accepted and not completed (R64). -/
inductive FlashOp where
  /-- An ERASE of the page at pb. -/
  | erase (pb : Word)
  /-- A WRITE of the page at pb with the fl_data it was issued with. -/
  | write (pb : Word) (data : Page)
  deriving DecidableEq, Repr

/-- The write the EEPROM collaborator has accepted and not completed: EEPROM[min(addr, 511)] <- data (R67, R68). -/
structure EepromOp where
  /-- The 16-bit address on the port. -/
  addr : Word
  /-- The byte on the port. -/
  data : Byte
  deriving DecidableEq, Repr

/-- A byte-addressed array: (address, byte) pairs, addresses strictly rising, no entry equal to what an unlisted address
reads as (`Memory.wf`, Machine/Ops.lean). -/
abbrev Memory := List Host.Cell

/-- The RX datapath registers (R23). -/
structure Rx where
  /-- RX_STATE. -/
  state : RxState
  /-- The tick is the first one with SEQ = RECEIVE (R122): the spec tells that tick apart and names no register for it
  (DEDUCED, safe, log entry 9). -/
  entry : Bool
  /-- RX_L, the reference line level. -/
  l : Bool
  /-- RX_N, calibration intervals measured, 0..16. -/
  n : BitVec 5
  /-- RX_S, the sum of calibration intervals 9..16, 0..2040. -/
  s : BitVec 11
  /-- RX_D, the sampling delay in ticks, 0..191. -/
  d : BitVec 8
  /-- RX_BITCNT, data bits decoded so far, 0..568. -/
  bitcnt : BitVec 10
  /-- RX_OK, the reception status reported to CSQ. -/
  ok : Bool
  deriving DecidableEq, Repr

/-- The FPE registers (R26). -/
structure Fpe where
  /-- FPE_STATE. -/
  state : FpeState
  /-- FPE_MODE. -/
  mode : FpeMode
  /-- FPE_PB, the page base address. -/
  pb : Word
  /-- PBUF, the full-page buffer. -/
  pbuf : Page
  /-- MRG_A, the merge target address. -/
  mrgA : Word
  /-- MRG_LEN, the merge length, 0..64. -/
  mrgLen : BitVec 7
  /-- MRG_DATA, the merge data, MRG_LEN bytes used. -/
  mrgData : Page
  deriving DecidableEq, Repr

/-- The EEPROM-sequence registers of CSQ (R29). -/
structure Ee where
  /-- EE_STATE. -/
  state : EeState
  /-- EE_BASE, (page_number * PAGESIZE) mod 2^16. -/
  base : Word
  /-- EE_LEN, the frame's length field. -/
  len : Word
  /-- EE_I, the next payload index. -/
  i : Word
  deriving DecidableEq, Repr

/-- The BSQ registers (R30). -/
structure Bsq where
  /-- BD_LREF, the boot-check level sampled at BOOT_START. -/
  lref : Bool
  /-- BD_CNT, the bounded poll counter; its width depends on BOOT_THRESHOLD and holds BOOT_THRESHOLD + 1
  (DEDUCED, safe, log entry 21). -/
  cnt : Nat
  deriving DecidableEq, Repr

/-- The output ports that carry a value (R33, R35).
fl_rddata, the input beside fl_rdaddr, is `State.flRddata` (Machine/Ops.lean).
DESIGN CHOICE (unsafe, log entries 23 and 31): no rule says what flPb, flData, flRdaddr, eeAddr and eeData show at a tick
that does not drive them; they keep their last value. -/
structure Ports where
  /-- fl_cmd, driven for one tick. -/
  flCmd : FlCmd
  /-- fl_pb. -/
  flPb : Word
  /-- fl_data. -/
  flData : Page
  /-- fl_rdaddr, the address of the last flash byte read (R33, R62). -/
  flRdaddr : Word
  /-- ee_req, driven for one tick. -/
  eeReq : Bool
  /-- ee_addr. -/
  eeAddr : Word
  /-- ee_data. -/
  eeData : Byte
  /-- ho_valid. -/
  hoValid : Bool
  /-- ho_target, a word address. -/
  hoTarget : Word
  deriving DecidableEq, Repr

/-- The state between two ticks. -/
structure State where
  /-- The device's parameters; no step changes them (R36). -/
  params : Params
  /-- SEQ (R20). -/
  seq : Seq
  /-- The receiver's registers (R23). -/
  rx : Rx
  /-- TMR, the one timer, 8 bits (R24). -/
  tmr : BitVec 8
  /-- FRAME[0..70] (R25). -/
  frame : FrameBuf
  /-- The flash engine's registers (R26). -/
  fpe : Fpe
  /-- GIE_SAVE (R26). -/
  gieSave : Bool
  /-- ENTRY_T, the transient entry pointer, a word address (R27). -/
  entryT : Word
  /-- The EEPROM sequence's registers (R29). -/
  ee : Ee
  /-- The boot sequencer's registers (R30). -/
  bsq : Bsq
  /-- EV, the status events emitted since reset, oldest first (R32). -/
  ev : List StatusEvent
  /-- The output ports (R33). -/
  ports : Ports
  /-- GIE, the CPU's interrupt-enable bit that the block reads and drives (R34). -/
  gie : Bool
  /-- FLASH (R60). -/
  flash : Memory
  /-- EEPROM (R60). -/
  eeprom : Memory
  /-- The flash controller's operation in progress (R64). -/
  flashOp : Option FlashOp
  /-- The EEPROM collaborator's write in progress (R68). -/
  eepromOp : Option EepromOp
  /-- The model's own: the draws of the coming ticks, the next one first; past its end the draws are free
  (DESIGN CHOICE, safe, log entry 5). -/
  inputs : List Inputs
  /-- The model's own: ticks since the model's start, which number the free draws. -/
  tick : Nat
  deriving DecidableEq, Repr

/-- Why a run stops. -/
inductive Fault where
  /-- Raised by a tick at SEQ = FATAL: reception failed, and only reset leaves FATAL (R252, R265 "fault", U19).
  Safe: no run of this block reaches it, since RX_OK is always 1 (R134). -/
  | rxFail
  /-- Raised by a flash read or command at an address outside [0, DEVICE_FLASH_SIZE) (R60, R62, R64).
  Safe: no run under valid parameters reaches it. -/
  | flashAddress (a : Nat)
  deriving DecidableEq, Repr

/-- What the model gives no meaning. -/
inductive Refusal where
  /-- An instruction whose arm of `exec` has no meaning yet. Safe. No arm answers it. -/
  | notModelled (mnemonic : String)
  /-- Raised by every tick of a device whose parameters break R9, R10 or D14 (U15 "refuse"). Safe. -/
  | badParams
  /-- Raised by MERGE with a range that leaves its page or the flash (R168, D16, U10 "refuse").
  Safe: the block's only caller never asks for one. -/
  | mergeRange
  /-- Raised when the CPU takes an interrupt while the block runs with GIE = 1 (R256, U9 "refuse"). Safe. -/
  | interruptTaken
  deriving DecidableEq, Repr

/-- The state right after a reset, given what a reset keeps and decides (R40, R281): SEQ by R280, GIE the CPU's, FLASH and
EEPROM kept.
ENTRY_T = 0x0000, FPE_STATE = IDLE, EV empty, ho_valid = 0, fl_cmd = NONE and ee_req = 0 are the spec's.
DESIGN CHOICE (unsafe, log entry 2): every register R40 calls "unspecified", and TMR ("any value"), holds zero or its
first-named value; no statement rests on these values. -/
def State.afterReset (p : Params) (seq : Seq) (gie : Bool) (flash eeprom : Memory) (inputs : List Inputs) (tick : Nat) :
    State :=
  { params := p
    seq := seq
    rx := { state := .waitE0, entry := false, l := false, n := 0, s := 0, d := 0, bitcnt := 0, ok := false }
    tmr := 0
    frame := Vector.replicate 71 0
    fpe := { state := .idle, mode := .page, pb := 0, pbuf := Vector.replicate 64 0, mrgA := 0, mrgLen := 0,
             mrgData := Vector.replicate 64 0 }
    gieSave := false
    entryT := 0x0000
    ee := { state := .next, base := 0, len := 0, i := 0 }
    bsq := { lref := false, cnt := 0 }
    ev := []
    ports := { flCmd := .none, flPb := 0, flData := Vector.replicate 64 0, flRdaddr := 0, eeReq := false,
               eeAddr := 0, eeData := 0, hoValid := false, hoTarget := 0 }
    gie := gie
    flash := flash
    eeprom := eeprom
    flashOp := none
    eepromOp := none
    inputs := inputs
    tick := tick }

/-- The block right after reset: nothing listed in either array, so host word 0 is ENTRY_JUMP_WORD (`flashBlank`) and
R280 gives BOOT_START.
DESIGN CHOICE (unsafe, log entries 1, 2, 3, 4): the example parameters, the unspecified registers, the arrays' contents
and the CPU's GIE = 0. -/
def State.reset : State := State.afterReset Params.example8k .bootStart false [] [] [] 0

end Sys2Proof.Machine
end

