-- ==== Sys2Proof/Machine/Ops.lean ====
section
/-! DEFINITION. The named operations over the arrays, the ports and the sequencer: reads and writes of FLASH and EEPROM
(R62 to R68), the controllers' completions, the tick (R121), the status events (R32), the fatal error (R252), the handoff
(R199) and reset (R280, R281, R287). -/

namespace Sys2Proof.Machine

/-! ## Arrays -/

/-- The byte a listed address holds, else what the address reads as when unlisted. -/
def Memory.read (blank : Nat → Byte) : Memory → Nat → Byte
  | [], a => blank a
  | (b, v) :: m, a => if a = b then v else Memory.read blank m a

/-- The entry for one written byte, where it is not what an unlisted address reads as. -/
def Memory.cell (blank : Nat → Byte) (a : Nat) (v : Byte) (m : Memory) : Memory :=
  if v = blank a then m else (a, v) :: m

/-- One byte written; the canonical form is kept. -/
def Memory.write (blank : Nat → Byte) : Memory → Nat → Byte → Memory
  | [], a, v => Memory.cell blank a v []
  | (b, w) :: m, a, v =>
    if a < b then Memory.cell blank a v ((b, w) :: m)
    else if a = b then Memory.cell blank a v m
    else (b, w) :: Memory.write blank m a v

/-- Consecutive bytes written from address a on. -/
def Memory.writeBytes (blank : Nat → Byte) : Memory → Nat → List Byte → Memory
  | m, _, [] => m
  | m, a, v :: vs => Memory.writeBytes blank (Memory.write blank m a v) (a + 1) vs

/-- Every listed address is at least lo, they rise strictly, and no entry equals the unlisted reading. -/
def Memory.wfFrom (blank : Nat → Byte) : Nat → Memory → Bool
  | _, [] => true
  | lo, (a, v) :: m => decide (lo ≤ a) && (v != blank a) && Memory.wfFrom blank (a + 1) m

/-- The canonical form, with every listed address below the array's size. -/
def Memory.wf (blank : Nat → Byte) (size : Nat) (m : Memory) : Bool :=
  Memory.wfFrom blank 0 m && m.all fun c => decide (c.1 < size)

/-- What an unlisted FLASH address reads as: ENTRY_JUMP_WORD at host word 0, as R286 (1) requires before the block's rules
describe the device, and ERASED_BYTE elsewhere.
DESIGN CHOICE (unsafe, log entry 3): the spec keeps FLASH from before the reset and gives no first contents. -/
def flashBlank (p : Params) (a : Nat) : Byte :=
  if a = 0 then loByte (entryJumpWord p) else if a = 1 then hiByte (entryJumpWord p) else p.erasedByte

/-- What an unlisted EEPROM address reads as.
DESIGN CHOICE (unsafe, log entry 3): 0xFF; the spec gives no first contents. -/
def eepromBlank (_ : Nat) : Byte := 0xFF

/-- EEPROM_LAST (R8). -/
def eepromLast : Nat := 511

/-- The collaborator's clamp: the byte an EepromWrite at a reaches (R67). -/
def eepromClamp (a : Word) : Nat := min a.toNat eepromLast

/-! ## FLASH -/

/-- The page base of a flash operation. -/
def FlashOp.pb : FlashOp → Word
  | .erase pb => pb
  | .write pb _ => pb

/-- The 64 bytes a flash operation leaves in its page at completion (R64). -/
def FlashOp.result (p : Params) : FlashOp → Page
  | .erase _ => Vector.replicate 64 p.erasedByte
  | .write _ data => data

/-- The address lies in the page of the operation (R64, R66). -/
def FlashOp.covers (op : FlashOp) (a : Nat) : Bool := decide (op.pb.toNat ≤ a ∧ a < op.pb.toNat + 64)

/-- FLASH[a] as the array holds it at this tick: an unspecified value in a page under operation (R62, R64; free,
safe, log entry 15). -/
def State.flashByte (s : State) (a : Nat) : Byte :=
  match s.flashOp with
  | some op =>
    if op.covers a then Config.unsettledFlash s.tick a else Memory.read (flashBlank s.params) s.flash a
  | none => Memory.read (flashBlank s.params) s.flash a

/-- fl_rddata: the byte the array answers, at this tick, to the address on fl_rdaddr (R33, R62). -/
def State.flRddata (s : State) : Byte := s.flashByte s.ports.flRdaddr.toNat

/-- fl_rdaddr <- a (R33). -/
def State.driveRdaddr (a : Word) (s : State) : State := { s with ports := { s.ports with flRdaddr := a } }

/-- The byte FlashRead(a) returns: fl_rddata with a on fl_rdaddr (R33, R62). -/
def State.readByte (s : State) (a : Word) : Byte := (s.driveRdaddr a).flRddata

/-- FlashRead(a) (R62); an address outside [0, DEVICE_FLASH_SIZE) has no byte (R60; DEDUCED, safe, log entry
13). -/
def State.flashRead (s : State) (a : Word) : Option Byte :=
  if a.toNat < s.params.flashSize then some (s.readByte a) else none

/-- The 64 bytes of FLASH from address a on. -/
def State.flashPage (s : State) (a : Nat) : Page := Vector.ofFn fun j : Fin 64 => s.flashByte (a + j.val)

/-- FLASH with the bytes of the page at a replaced. -/
def State.putPage (s : State) (a : Word) (d : Page) : Memory :=
  Memory.writeBytes (flashBlank s.params) s.flash a.toNat d.toList

/-- ENTRY_P = LE16(FLASH[BOOTLOADER_START-2], FLASH[BOOTLOADER_START-1]) (R28, R72, R193). -/
def State.entryP (s : State) : Word :=
  le16 (s.flashByte (s.params.blStart - 2)) (s.flashByte (s.params.blStart - 1))

/-- FlashCmd(op, pb): the command is driven for one tick and accepted by the controller (R64); its page must exist (R60;
DEDUCED, safe, log entry 13). -/
def State.flashCmd (op : FlashOp) (s : State) : Host.Outcome State Fault Refusal :=
  if op.pb.toNat + 64 ≤ s.params.flashSize then
    .next
      { s with
        ports :=
          match op with
          | .erase pb => { s.ports with flCmd := .erase, flPb := pb }
          | .write pb data => { s.ports with flCmd := .write, flPb := pb, flData := data }
        flashOp := some op }
  else .fault (.flashAddress op.pb.toNat)

/-- The flash controller's part of a tick: the operation in progress completes at the first tick at which fl_busy reads 0
(R64; DEDUCED, safe, log entry 14). -/
def State.flashController (e : Inputs) (s : State) : State :=
  match s.flashOp with
  | some op => if e.flBusy then s else { s with flash := s.putPage op.pb (op.result s.params), flashOp := none }
  | none => s

/-! ## EEPROM -/

/-- EEPROM[a] as the array holds it at this tick: an unspecified value in the byte under a write (R68). -/
def State.eepromByte (s : State) (a : Nat) : Byte :=
  match s.eepromOp with
  | some op =>
    if a = eepromClamp op.addr then Config.unsettledEeprom s.tick else Memory.read eepromBlank s.eeprom a
  | none => Memory.read eepromBlank s.eeprom a

/-- EepromWrite(a, v): the request is driven for one tick and accepted by the collaborator (R67, R68). -/
def State.eepromWrite (a : Word) (v : Byte) (s : State) : State :=
  { s with
    ports := { s.ports with eeReq := true, eeAddr := a, eeData := v }
    eepromOp := some { addr := a, data := v } }

/-- The EEPROM collaborator's part of a tick: the write in progress completes when ee_busy reads 0 (R68). -/
def State.eepromCollaborator (e : Inputs) (s : State) : State :=
  match s.eepromOp with
  | some op =>
    if e.eeBusy then s
    else { s with eeprom := Memory.write eepromBlank s.eeprom (eepromClamp op.addr) op.data, eepromOp := none }
  | none => s

/-! ## The tick -/

/-- The draws of the present tick: the next of the script, or free ones (R11). -/
def State.now (s : State) : Inputs :=
  match s.inputs with
  | [] => Config.inputsAt s.tick
  | e :: _ => e

/-- What a tick does outside the block: the controllers' completions, and time passes. -/
def State.environmentTick (e : Inputs) (s : State) : State :=
  let t := (s.flashController e).eepromCollaborator e
  { t with inputs := s.inputs.drop 1, tick := s.tick + 1 }

/-- What a tick does before the active rule runs: TMR <- (TMR + 1) mod 2^8 (R24, R121), and the ports driven for one tick
return to fl_cmd = NONE and ee_req = 0 (R64, R67; DEDUCED, safe, log entry 23). -/
def State.beginTick (e : Inputs) (s : State) : State :=
  let t := s.environmentTick e
  { t with tmr := t.tmr + 1, ports := { t.ports with flCmd := .none, eeReq := false } }

/-! ## The sequencer -/

/-- `emit E`: append E to the event stream (R13, R32). -/
def State.emit (E : StatusEvent) (s : State) : State := { s with ev := s.ev ++ [E] }

/-- `SEQ <- v` (R13, R20). -/
def State.goto (v : Seq) (s : State) : State := { s with seq := v }

/-- SEQ <- RECEIVE: the next tick is the first one with SEQ = RECEIVE (R122, R230, R284). -/
def State.gotoReceive (s : State) : State := { s with seq := .receive, rx := { s.rx with entry := true } }

/-- `raise Fatal(RX_FAIL)`: the block's one error outcome (R252). Nothing is saved and no handler runs (R258). -/
def State.raiseFatal (s : State) : State := (s.emit .fatalBlink).goto .fatal

/-- handoff(t): ho_valid <- 1, ho_target <- t, SEQ <- HALTED (R35, R199). -/
def State.handoff (t : Word) (s : State) : State :=
  { s with ports := { s.ports with hoValid := true, hoTarget := t }, seq := .halted }

/-! ## Reset -/

/-- FLASH after a reset: kept, but every byte of a page under operation holds any value (R41, R287; free, safe, log
entry 16). -/
def State.flashKept (s : State) : Memory :=
  match s.flashOp with
  | some op => s.putPage op.pb (Vector.ofFn fun j : Fin 64 => Config.lostFlash s.tick (op.pb.toNat + j.val))
  | none => s.flash

/-- EEPROM after a reset: kept, but the byte under a write holds any value (R41, R287; free, safe, log entry 16). -/
def State.eepromKept (s : State) : Memory :=
  match s.eepromOp with
  | some op => Memory.write eepromBlank s.eeprom (eepromClamp op.addr) (Config.lostEeprom s.tick)
  | none => s.eeprom

/-- Host word 0 of an array, LE16(FLASH[0], FLASH[1]) (R71, R280). -/
def Memory.hostWord0 (p : Params) (m : Memory) : Word :=
  le16 (Memory.read (flashBlank p) m 0) (Memory.read (flashBlank p) m 1)

/-- Where a reset leads (R280): into the block where host word 0 jumps to the bootloader entry, else past it. -/
def resetSeq (p : Params) (m : Memory) : Seq := if reachesEntry p (m.hostWord0 p) then .bootStart else .bypassed

/-- An external reset or a power cycle (R280, R281, R287). -/
def State.takeReset (e : Inputs) (s : State) : State :=
  State.afterReset s.params (resetSeq s.params s.flashKept) e.gieEntry s.flashKept s.eepromKept (s.inputs.drop 1)
    (s.tick + 1)

/-- Control reaches BOOTLOADER_ENTRY by another route: exactly a reset, but into the block whatever word 0 holds
(R280, D33; DEDUCED, safe, log entry 17). -/
def State.takeEntry (e : Inputs) (s : State) : State :=
  State.afterReset s.params .bootStart e.gieEntry s.flashKept s.eepromKept (s.inputs.drop 1) (s.tick + 1)

end Sys2Proof.Machine
end

