-- ==== Sys2Proof/Machine/Operands.lean ====
section
/-! DEFINITION. Every operand a command or sequence takes, and where it comes from (R95, R195, R225, R227, R231, R232). -/

namespace Sys2Proof.Machine

/-- The page address of a frame's page_number (R95). -/
def pageOperand (f : Fields) : Word := pageAddr f.pageNumber

/-- The page lies in the Bootloader Region: addr >= BOOTLOADER_START (R73, R225). -/
def selfProtected (p : Params) (addr : Word) : Bool := decide (p.blStart ≤ addr.toNat)

/-- The EEPROM address of the next byte, (EE_BASE + EE_I) mod 65536 (R231, R232). -/
def eeAddress (s : State) : Word := s.ee.base + s.ee.i

/-- The EEPROM byte of index EE_I: PAYLOAD[EE_I] for EE_I < PAGESIZE, else a draw (R231, U5, D10). -/
def eeData (e : Inputs) (s : State) : Byte :=
  if h : s.ee.i.toNat < 64 then s.frame[7 + s.ee.i.toNat] else e.drawByte

/-- The address of the persisted pointer, BOOTLOADER_START - 2 (R72, R195). -/
def pointerAddr (p : Params) : Word := BitVec.ofNat 16 (p.blStart - 2)

/-- The address of the persisted pointer's second byte, BOOTLOADER_START - 1 (R72, R193). -/
def pointerHighAddr (p : Params) : Word := BitVec.ofNat 16 (p.blStart - 1)

/-- A pointer's two bytes as merge data, ENTRY[7:0] first (R63, R195). -/
def pointerData (w : Word) : List Byte := [loByte w, hiByte w]

/-- The first bytes of a page buffer replaced by the given ones; the rest keep their values (R168). -/
def overwrite (b : Page) (ds : List Byte) : Page := Vector.ofFn fun j : Fin 64 => ds.getD j.val b[j.val]

/-- The address of byte j of the page FPE works on (R169). -/
def fpeAddr (s : State) (j : Nat) : Word := s.fpe.pb + BitVec.ofNat 16 j

/-- The merge covers byte j of the page: MRG_A <= FPE_PB + j < MRG_A + MRG_LEN (R169). -/
def mergeCovers (s : State) (j : Nat) : Bool :=
  decide (s.fpe.mrgA.toNat ≤ s.fpe.pb.toNat + j ∧ s.fpe.pb.toNat + j < s.fpe.mrgA.toNat + s.fpe.mrgLen.toNat)

/-- Byte j of an assembled page: supplied data where the merge covers its address, else FlashRead of it (R169). -/
def assembledByte (s : State) (j : Fin 64) : Byte :=
  if mergeCovers s j.val then s.fpe.mrgData.toList.getD (s.fpe.pb.toNat + j.val - s.fpe.mrgA.toNat) 0
  else s.readByte (fpeAddr s j.val)

/-- The index of the last byte that assembling the page reads from FLASH, where it reads any (R169). -/
def lastReadBack (s : State) : Option Nat := ((List.range 64).filter fun j => !mergeCovers s j).getLast?

end Sys2Proof.Machine
end

