-- ==== Sys2Proof/Machine/Flags.lean ====
section
/-! DEFINITION. The block's flags (R31): it has no condition codes.

RX_OK is set at the end of a reception and read once (R134, R221).
fl_busy and ee_busy are samples of the present tick (R64, R68).
GIE is the CPU's bit, masked at the start of a flash page operation or an EEPROM byte and restored at its end (R34). -/

namespace Sys2Proof.Machine

/-- GIE_SAVE <- gie_in, GIE <- 0 (R34, R162, R231). -/
def State.maskGie (s : State) : State := { s with gieSave := s.gie, gie := false }

/-- GIE <- GIE_SAVE (R34, R166, R231). -/
def State.restoreGie (s : State) : State := { s with gie := s.gieSave }

/-- RX_OK <- 1: reception reports success always (R134, D6). -/
def State.receptionOk (s : State) : State := { s with rx := { s.rx with ok := true } }

/-- The tick's line sample is an edge: it differs from RX_L (R121, R138). -/
def State.edge (e : Inputs) (s : State) : Bool := e.rxIn != s.rx.l

end Sys2Proof.Machine
end

