-- ==== Sys2Proof/Machine/Bsq.lean ====
section
/-! DEFINITION. BSQ, the boot sequencer (70_reset_and_hazards.md R282 to R285). -/

namespace Sys2Proof.Machine

/-- BOOT_START: the level present now is the hold level (R282, D21). -/
def bootStart (e : Inputs) (s : State) : State :=
  ({ s with bsq := { lref := e.bootIn, cnt := 0 } }.emit .statusOn).goto .bootPoll

/-- BOOT_POLL: the line is tested first, then the counter (R283, R257); R284 falls through, R285 exits. -/
def bootPoll (e : Inputs) (s : State) : State :=
  if e.bootIn != s.bsq.lref then (s.emit .statusOff).goto .exitNp
  else
    let c := s.bsq.cnt + 1
    let t := { s with bsq := { s.bsq with cnt := c } }
    if s.params.bootThreshold < c then (t.emit .statusOff).gotoReceive else t

end Sys2Proof.Machine
end

