-- ==== Sys2Proof/Machine/Fpe.lean ====
section
/-! DEFINITION. FPE, the flash page erase/program engine (41_flash_engine.md): PAGE, MERGE and the steps they share.
There is no verify phase (R6, R173). INTERCEPT, which runs RVI's instruction meanings, is in Machine/Step.lean. -/

namespace Sys2Proof.Machine

/-- PAGE start: erase_and_write_page(pa, data) (R161, R175). -/
def startPage (pa : Word) (data : Page) (s : State) : State :=
  { s with fpe := { s.fpe with mode := .page, pb := pageBase pa, pbuf := data, state := .enter } }

/-- MERGE's precondition: at most 64 bytes, in one page and inside FLASH (R168; DEDUCED, safe, log entry 20). -/
abbrev MergeRangeOk (p : Params) (a : Word) (len : Nat) : Prop :=
  len ≤ 64 ∧ (len = 0 ∨ a.toNat / 64 = (a.toNat + len - 1) / 64) ∧ a.toNat + len ≤ p.flashSize

/-- MERGE start: merge_write(a, data, len); a range that leaves the page is refused (R168, D16, U10). -/
def startMerge (a : Word) (data : List Byte) (s : State) : Host.Outcome State Fault Refusal :=
  if MergeRangeOk s.params a data.length then
    .next
      { s with
        fpe :=
          { s.fpe with
            mode := .merge
            pb := pageBase a
            mrgA := a
            mrgLen := BitVec.ofNat 7 data.length
            mrgData := overwrite s.fpe.mrgData data
            state := .enter } }
  else .refused .mergeRange

/-- `FPE_STATE <- v`. -/
def State.fpeGoto (v : FpeState) (s : State) : State := { s with fpe := { s.fpe with state := v } }

/-- ENTER: mask interrupts (R162). -/
def fpeEnter (s : State) : State :=
  s.maskGie.fpeGoto (match s.fpe.mode with | .merge => .assemble | .page => .intercept)

/-- What ASSEMBLE leaves on fl_rdaddr: the address of the last byte it has read, the bytes being read in the order of
R169's loop (DESIGN CHOICE, unsafe, log entry 31). -/
def driveReadBack (s : State) : State :=
  match lastReadBack s with
  | some j => s.driveRdaddr (fpeAddr s j)
  | none => s

/-- ASSEMBLE: read the page back and substitute the merge data byte by byte (R169); the page must exist (R60).
DESIGN CHOICE (safe, log entry 22): one tick, whose number carries no meaning (R15). -/
def fpeAssemble (s : State) : Host.Outcome State Fault Refusal :=
  if s.fpe.pb.toNat + 64 ≤ s.params.flashSize then
    .next { driveReadBack s with fpe := { s.fpe with pbuf := Vector.ofFn (assembledByte s), state := .intercept } }
  else .fault (.flashAddress s.fpe.pb.toNat)

/-- ERASE: issue the page erase (R164). -/
def fpeErase (s : State) : Host.Outcome State Fault Refusal := (s.fpeGoto .eraseWait).flashCmd (.erase s.fpe.pb)

/-- ERASE_WAIT: poll fl_busy with no bound (R164, R172). -/
def fpeEraseWait (e : Inputs) (s : State) : State := if e.flBusy then s else s.fpeGoto .write

/-- WRITE: issue the page write from PBUF (R165). -/
def fpeWrite (s : State) : Host.Outcome State Fault Refusal :=
  (s.fpeGoto .writeWait).flashCmd (.write s.fpe.pb s.fpe.pbuf)

/-- WRITE_WAIT: poll fl_busy with no bound (R165, R172). -/
def fpeWriteWait (e : Inputs) (s : State) : State := if e.flBusy then s else s.fpeGoto .done

/-- DONE: restore interrupts, go idle, and continue the caller: Program emits PROGRAM_OK and goes to CLEAR (R225), and
exit_with_persist hands off to ENTRY_T (R195) (R166). -/
def fpeDone (s : State) : State :=
  let t := s.restoreGie.fpeGoto .idle
  match t.seq with
  | .program => (t.emit .programOk).goto .clear
  | .exitP => t.handoff t.entryT
  | _ => t

end Sys2Proof.Machine
end

