-- ==== Sys2Proof/Machine/Csq.lean ====
section
/-! DEFINITION. CSQ, the command sequencer (43_commands.md): the meaning of every frame command, CLEAR, and the EEPROM
byte sequence.

A command's meaning is its DECODE step, the step R222 to R229 give it; the states it starts are stepped by
Machine/Step.lean (DESIGN CHOICE, safe, log entry 7). -/

namespace Sys2Proof.Machine

/-- The instruction the DECODE step finds: the frame received (R222). -/
def fetchFrame (s : State) : Instr := decodeFrame s.frame

/-- A command with no effect: the loop continues at CLEAR (R97, R223, R224, R228, R229). -/
def noEffect (s : State) : Host.Outcome State Fault Refusal := .next (s.goto .clear)

/-- None (R223). -/
def execNone (_ : Fields) (s : State) : Host.Outcome State Fault Refusal := noEffect s

/-- Test (R224). -/
def execTest (_ : Fields) (s : State) : Host.Outcome State Fault Refusal := noEffect s

/-- Program: a page at or above BOOTLOADER_START is silently ignored, any other is started (R225, R232). -/
def execProgram (f : Fields) (s : State) : Host.Outcome State Fault Refusal :=
  if selfProtected s.params (pageOperand f) then noEffect s
  else .next ((startPage (pageOperand f) f.payload s).goto .program)

/-- Run: exit_with_persist follows (R226). -/
def execRun (_ : Fields) (s : State) : Host.Outcome State Fault Refusal := .next (s.goto .exitP)

/-- WriteEEPROM: the byte sequence starts (R227). -/
def execWriteEeprom (f : Fields) (s : State) : Host.Outcome State Fault Refusal :=
  .next ({ s with ee := { state := .next, base := pageOperand f, len := f.length, i := 0 } }.goto .eeprom)

/-- Exit: despite its name it hands nothing off (R228). -/
def execExit (_ : Fields) (s : State) : Host.Outcome State Fault Refusal := noEffect s

/-- CMD 0x06..0x07 (R229). -/
def execUnrecognised06To07 (_ : BitVec 1) (_ : Fields) (s : State) : Host.Outcome State Fault Refusal := noEffect s

/-- CMD 0x08..0x0F (R229). -/
def execUnrecognised08To0F (_ : BitVec 3) (_ : Fields) (s : State) : Host.Outcome State Fault Refusal := noEffect s

/-- CMD 0x10..0x1F (R229). -/
def execUnrecognised10To1F (_ : BitVec 4) (_ : Fields) (s : State) : Host.Outcome State Fault Refusal := noEffect s

/-- CMD 0x20..0x3F (R229). -/
def execUnrecognised20To3F (_ : BitVec 5) (_ : Fields) (s : State) : Host.Outcome State Fault Refusal := noEffect s

/-- CMD 0x40..0x7F (R229). -/
def execUnrecognised40To7F (_ : BitVec 6) (_ : Fields) (s : State) : Host.Outcome State Fault Refusal := noEffect s

/-- CMD 0x80..0xFF (R229). -/
def execUnrecognised80ToFF (_ : BitVec 7) (_ : Fields) (s : State) : Host.Outcome State Fault Refusal := noEffect s

/-- CLEAR: FRAME[0] <- 0x00 and back to RECEIVE (R230). -/
def csqClear (s : State) : State := { s with frame := s.frame.set 0 0x00 }.gotoReceive

/-- The sequence's next byte: its index moves on and GIE is restored (R231). -/
def eeAdvance (s : State) : State :=
  let t := s.restoreGie
  { t with ee := { t.ee with i := t.ee.i + 1, state := .next } }

/-- One tick of the EEPROM byte sequence (R231). -/
def eeTick (e : Inputs) (s : State) : State :=
  match s.ee.state with
  | .next =>
    if s.ee.i = s.ee.len then s.goto .exitNp
    else
      let t := s.maskGie
      { t with ee := { t.ee with state := .wait } }
  | .wait => if e.eeBusy then s else { s with ee := { s.ee with state := .issue } }
  | .issue => eeAdvance (s.eepromWrite (eeAddress s) (eeData e s))

end Sys2Proof.Machine
end

