-- ==== Sys2Proof/Machine/Rvi.lean ====
section
/-! DEFINITION. RVI, reset-vector interception and entry-pointer relocation (42_trampoline.md): the meanings of the two
host-word instructions, and the two exits. -/

namespace Sys2Proof.Machine

/-- The instruction FPE's INTERCEPT step finds: host word 0 of PBUF, on the reset-vector page only, and only where it is
a relative jump (R163, R190, R191). -/
def interceptFetch (s : State) : Option Instr :=
  if s.fpe.pb = 0 then (decodeHostWord s.params (word0 s.fpe.pbuf)).toOption else none

/-- The interception of the relative jump w (R190): its target becomes the transient entry pointer, ENTRY_JUMP_WORD takes
its place in the page buffer, and FPE goes on to ERASE (R163). -/
def interceptWord (w : Word) (s : State) : State :=
  { s with
    entryT := rjmpTarget s.params w 0
    fpe := { s.fpe with pbuf := putWord0 s.fpe.pbuf (entryJumpWord s.params), state := .erase } }

/-- INTERCEPT where nothing is intercepted (R163, R191). -/
def interceptSkip (s : State) : State := s.fpeGoto .erase

/-- A relative jump as word 0 of a page-0 buffer (R106, R107, R190). -/
def execRjmp (k : BitVec 12) (s : State) : Host.Outcome State Fault Refusal := .next (interceptWord (rjmpWord k) s)

/-- ENTRY_JUMP_WORD as word 0 of a page-0 buffer: it too is a relative jump, so ENTRY_T takes the bootloader's own entry
and the word is replaced by itself (R108, R174, R190, R298). -/
def execEntryJumpWord (s : State) : Host.Outcome State Fault Refusal := .next (interceptWord (entryJumpWord s.params) s)

/-- EXIT_NP: exit_without_persist, ENTRY_T <- ENTRY_P and handoff to it, with no flash write (R194).
fl_rdaddr is left at the second of the two bytes read (DESIGN CHOICE, unsafe, log entry 31). -/
def exitNp (s : State) : Host.Outcome State Fault Refusal :=
  match s.flashRead (pointerAddr s.params), s.flashRead (pointerHighAddr s.params) with
  | some b0, some b1 =>
    .next ({ s.driveRdaddr (pointerHighAddr s.params) with entryT := le16 b0 b1 }.handoff (le16 b0 b1))
  | _, _ => .fault (.flashAddress (pointerHighAddr s.params).toNat)

/-- EXIT_P, its first step: exit_with_persist starts the merge of ENTRY_T into the pointer page (R195). -/
def exitPStart (s : State) : Host.Outcome State Fault Refusal :=
  startMerge (pointerAddr s.params) (pointerData s.entryT) s

end Sys2Proof.Machine
end

