-- ==== Sys2Proof/Machine/Dispatch.lean ====
section
/-! DEFINITION. One arm per instruction. -/

namespace Sys2Proof.Machine

def exec (i : Instr) (s : State) : Host.Outcome State Fault Refusal :=
  match i with
  -- the frame commands, run by the DECODE step (R222)
  | .cmdNone f => Sys2Proof.Machine.execNone f s
  | .cmdTest f => Sys2Proof.Machine.execTest f s
  | .cmdProgram f => Sys2Proof.Machine.execProgram f s
  | .cmdRun f => Sys2Proof.Machine.execRun f s
  | .cmdWriteEeprom f => Sys2Proof.Machine.execWriteEeprom f s
  | .cmdExit f => Sys2Proof.Machine.execExit f s
  | .cmd06To07 b f => Sys2Proof.Machine.execUnrecognised06To07 b f s
  | .cmd08To0F b f => Sys2Proof.Machine.execUnrecognised08To0F b f s
  | .cmd10To1F b f => Sys2Proof.Machine.execUnrecognised10To1F b f s
  | .cmd20To3F b f => Sys2Proof.Machine.execUnrecognised20To3F b f s
  | .cmd40To7F b f => Sys2Proof.Machine.execUnrecognised40To7F b f s
  | .cmd80ToFF b f => Sys2Proof.Machine.execUnrecognised80ToFF b f s
  -- the host words, run by the INTERCEPT step on the reset-vector page (R163)
  | .rjmp k => Sys2Proof.Machine.execRjmp k s
  | .entryJumpWord => Sys2Proof.Machine.execEntryJumpWord s

end Sys2Proof.Machine
end

