-- ==== Sys2Proof/Machine/Rx.lean ====
section
/-! DEFINITION. RX, the differential phase-locked bit-recovery receiver (40_receiver.md).

Each rule is a function of the tick's inputs and of the state in which the tick has begun (`State.beginTick`), so `s.tmr`
is the value every rule reads as tmr (R121). -/

namespace Sys2Proof.Machine

/-- RX_D = floor(3 * RX_S / 32) (R125). -/
def samplingDelay (sum : BitVec 11) : BitVec 8 := BitVec.ofNat 8 (3 * sum.toNat / 32)

/-- The first tick with SEQ = RECEIVE (R122). -/
def rxEntry (e : Inputs) (s : State) : State :=
  { s with rx := { s.rx with l := e.rxIn, state := .waitE0, entry := false } }

/-- WAIT_E0: the first edge, E0 (R123). -/
def rxWaitE0 (e : Inputs) (s : State) : State :=
  if s.edge e then { s with rx := { s.rx with l := e.rxIn, n := 0, s := 0, state := .cal }, tmr := 0 } else s

/-- The sum of intervals 9..16 after the interval that ends at this edge: intervals 1..8 are discarded (R124). -/
def intervalSum (s : State) : BitVec 11 := if 8 ≤ s.rx.n.toNat then s.rx.s + s.tmr.setWidth 11 else s.rx.s

/-- CAL: the edges E1 to E16 (R124); at E16, RX_D (R125). -/
def rxCal (e : Inputs) (s : State) : State :=
  if s.edge e then
    let n1 := s.rx.n + 1
    let s1 := intervalSum s
    let r : Rx := { s.rx with l := e.rxIn, n := n1, s := s1 }
    { s with rx := if n1 = 16 then { r with d := samplingDelay s1, state := .markDelay } else r, tmr := 0 }
  else s

/-- The sampling instant has come: tmr >= RX_D (R126). -/
def sampleDue (s : State) : Bool := decide (s.rx.d ≤ s.tmr)

/-- MARK_DELAY: a cell with a mid-cell transition is the start marker, and is not emitted as data (R127, R130). -/
def rxMarkDelay (e : Inputs) (s : State) : State :=
  if sampleDue s then
    if s.edge e then { s with rx := { s.rx with l := e.rxIn, bitcnt := 0, state := .dataEdge } }
    else { s with rx := { s.rx with state := .markEdge } }
  else s

/-- MARK_EDGE: the next boundary during the marker search (R128). -/
def rxMarkEdge (e : Inputs) (s : State) : State :=
  if s.edge e then { s with rx := { s.rx with l := e.rxIn, state := .markDelay }, tmr := 0 } else s

/-- DATA_EDGE: a data cell's boundary re-locks the phase (R131, R135). -/
def rxDataEdge (e : Inputs) (s : State) : State :=
  if s.edge e then { s with rx := { s.rx with l := e.rxIn, state := .dataDelay }, tmr := 0 } else s

/-- FRAME with data bit i written: bit (7 - (i mod 8)) of FRAME[floor(i / 8)] (R92, R133). -/
def putDataBit (fr : FrameBuf) (i : Nat) (b : Bool) : FrameBuf :=
  fr.setIfInBounds (i / 8) (setBit (fr.toList.getD (i / 8) 0) (7 - i % 8) b)

/-- The end of a reception: RX_OK <- 1, SEQ <- DECODE (R134). -/
def rxFinish (s : State) : State := s.receptionOk.goto .decode

/-- DATA_DELAY: sample and decode one bit; after bit 567 the reception is finished (R132, R134). -/
def rxDataDelay (e : Inputs) (s : State) : State :=
  if sampleDue s then
    let i := s.rx.bitcnt.toNat
    let t :=
      { s with frame := putDataBit s.frame i (s.edge e), rx := { s.rx with l := e.rxIn, bitcnt := s.rx.bitcnt + 1 } }
    if i + 1 = 568 then rxFinish t else { t with rx := { t.rx with state := .dataEdge } }
  else s

/-- One tick of RX (R120, R122 to R134). -/
def rxTick (e : Inputs) (s : State) : State :=
  if s.rx.entry then rxEntry e s
  else
    match s.rx.state with
    | .waitE0 => rxWaitE0 e s
    | .cal => rxCal e s
    | .markDelay => rxMarkDelay e s
    | .markEdge => rxMarkEdge e s
    | .dataEdge => rxDataEdge e s
    | .dataDelay => rxDataDelay e s

end Sys2Proof.Machine
end

