-- ==== Sys2Proof/Machine/Step.lean ====
section
/-! DEFINITION. One step is one tick (R15): the one active engine takes one step (R17). -/

namespace Sys2Proof.Machine

/-- DECODE: the reception check first (R221), then the received command (R222). -/
def decodeTick (s : State) : Host.Outcome State Fault Refusal :=
  if s.rx.ok then exec (fetchFrame s) s else .next s.raiseFatal

/-- INTERCEPT: RVI runs on the relative jump of a page-0 buffer; anything else passes (R163, R190, R191). -/
def interceptTick (s : State) : Host.Outcome State Fault Refusal :=
  match interceptFetch s with
  | some i => exec i s
  | none => .next (interceptSkip s)

/-- One tick of FPE (R160). At IDLE nothing is running: exit_with_persist starts its merge there (R195); SEQ = PROGRAM
with FPE idle is no state of the block's, and nothing advances (R22).
DEDUCED (safe, log entry 12). -/
def fpeTick (e : Inputs) (s : State) : Host.Outcome State Fault Refusal :=
  match s.fpe.state with
  | .idle => if s.seq = .exitP then exitPStart s else .next s
  | .enter => .next (fpeEnter s)
  | .assemble => fpeAssemble s
  | .intercept => interceptTick s
  | .erase => fpeErase s
  | .eraseWait => .next (fpeEraseWait e s)
  | .write => fpeWrite s
  | .writeWait => .next (fpeWriteWait e s)
  | .done => .next (fpeDone s)

/-- The active rule, on the state in which the tick has begun (R20, R121). -/
def activeRule (e : Inputs) (s : State) : Host.Outcome State Fault Refusal :=
  match s.seq with
  | .bootStart => .next (bootStart e s)
  | .bootPoll => .next (bootPoll e s)
  | .receive => .next (rxTick e s)
  | .decode => decodeTick s
  | .program => fpeTick e s
  | .eeprom => .next (eeTick e s)
  | .clear => .next (csqClear s)
  | .exitNp => exitNp s
  | .exitP => fpeTick e s
  | .fatal => .fault .rxFail
  | .halted => .next s
  | .bypassed => .next s

/-- SEQ at a value from which no step leads but reset (R42). -/
def Seq.terminal (q : Seq) : Bool := q == .fatal || q == .halted || q == .bypassed

/-- The CPU is running something other than the block (R199, R280). -/
def Seq.cpuElsewhere (q : Seq) : Bool := q == .halted || q == .bypassed

/-- A tick with no reset: the tick begins, in every SEQ state alike (R121), and the active rule runs.
In a terminal state the rule changes nothing (R42); the controllers go on with what they have accepted (R295).
DEDUCED (safe, log entry 10): TMR, free-running (R24, R121, R260), is no register in R42's sense. -/
def ruleTick (e : Inputs) (s : State) : Host.Outcome State Fault Refusal := activeRule e (s.beginTick e)

/-- One step: one tick. Parameters outside their constraints are refused (U15). A reset wins at any tick (R257); an entry
by another route comes from a CPU that runs something else (R280); an interrupt the CPU takes while the block runs has no
meaning (U9), and none is taken while GIE is 0.
DESIGN CHOICE (safe, log entries 17 to 19): what a tick may carry, and from which states. -/
def step (s : State) : Host.Outcome State Fault Refusal :=
  if ParamsValid s.params then
    match s.now.event with
    | .reset => .next (s.takeReset s.now)
    | .entry => if s.seq.cpuElsewhere then .next (s.takeEntry s.now) else ruleTick s.now s
    | .interrupt => if s.gie && !s.seq.terminal then .refused .interruptTaken else ruleTick s.now s
    | .quiet => ruleTick s.now s
  else .refused .badParams

/-- The script of inputs with a next tick at which nothing but the active rule happens. -/
def quietNext : List Inputs → List Inputs
  | [] => [Inputs.quiet]
  | e :: es => { e with event := .quiet } :: es

/-- s with a table row's bits where the block reads its next instruction, and the block at the step that reads it: a frame
in FRAME with SEQ = DECODE (R222), or a host word in PBUF[0..1] of a page-0 operation at INTERCEPT (R163).
The next tick carries no reset.
DESIGN CHOICE (safe, log entry 6): the placement stands for the reception or the page operation that leads there. -/
def State.withFetchWord (s : State) (nbits w : Nat) : State :=
  let t := { s with inputs := quietNext s.inputs }
  match formatOfWidth nbits with
  | .frame => { t with seq := .decode, rx := { t.rx with ok := true }, frame := frameOfNat (w % 2 ^ nbits) }
  | .hostWord =>
    { t with
      seq := .program
      fpe := { t.fpe with state := .intercept, pb := 0, pbuf := putWord0 t.fpe.pbuf (BitVec.ofNat 16 w) } }

end Sys2Proof.Machine
end

