-- ==== Sys2Proof/Machine/Line.lean ====
section
/-! DEFINITION. The line code and the reference sender (R90 to R93, R136): what a sender drives on rx_in. -/

namespace Sys2Proof.Machine

/-- The levels of one bit cell of p ticks that starts from line level l: a boundary transition, and for a 1 one more
transition m ticks after it (R90, R91). -/
def cellLevels (p m : Nat) (l : Bool) (bit : Bool) : List Bool :=
  if bit then List.replicate m (!l) ++ List.replicate (p - m) l else List.replicate p (!l)

/-- The level a cell leaves on the line. -/
def cellEnd (l : Bool) (bit : Bool) : Bool := if bit then l else !l

/-- The levels of a sequence of cells of the reference sender with period p, whose mid-cell transitions come floor(p/2)
ticks after the boundaries (R136). -/
def cellsLevels (p : Nat) : Bool → List Bool → List Bool
  | _, [] => []
  | l, b :: bs => cellLevels p (p / 2) l b ++ cellsLevels p (cellEnd l b) bs

/-- The data bit of cell i: bit 7 - (i mod 8) of FRAME[floor(i / 8)] (R92). -/
def dataBit (fr : FrameBuf) (i : Nat) : Bool := (fr.toList.getD (i / 8) 0).getLsbD (7 - i % 8)

/-- The 568 data cells of a frame, in line order (R92, R98). -/
def frameCells (fr : FrameBuf) : List Bool := (List.range 568).map (dataBit fr)

/-- The cells of one frame's envelope: n training zeros, the start marker, the data (R93). -/
def envelopeCells (n : Nat) (fr : FrameBuf) : List Bool := List.replicate n false ++ true :: frameCells fr

/-- The line levels of one frame: a steady level l for `lead` ticks, then the cells (R93). -/
def envelope (p lead n : Nat) (l : Bool) (fr : FrameBuf) : List Bool :=
  List.replicate lead l ++ cellsLevels p l (envelopeCells n fr)

end Sys2Proof.Machine
end

