-- ==== Sys2Proof/Safety.lean ====
section
/-! DEFINITION. The terms claims are stated in: runs, what stays unchanged, the invariants, and the labels the spec gives
a model for outcomes and run ends (R202, R251, R265). -/

namespace Sys2Proof.Machine

/-! ## Runs -/

/-- n ticks, stopping at the first fault or refusal. -/
def run : Nat → State → Host.Outcome State Fault Refusal
  | 0, s => .next s
  | n + 1, s =>
    match step s with
    | .next t => run n t
    | .fault r => .fault r
    | .refused r => .refused r

/-- Nothing but the active rule happens at any of these ticks. -/
abbrev AllQuiet (es : List Inputs) : Prop := ∀ e ∈ es, e.event = .quiet

/-- The flash controller is busy at each of these ticks. -/
abbrev FlashBusy (es : List Inputs) : Prop := ∀ e ∈ es, e.flBusy = true

/-- The EEPROM collaborator is busy at each of these ticks. -/
abbrev EepromBusy (es : List Inputs) : Prop := ∀ e ∈ es, e.eeBusy = true

/-- The boot-check line holds one level at each of these ticks. -/
abbrev BootHeld (b : Bool) (es : List Inputs) : Prop := ∀ e ∈ es, e.bootIn = b

/-! ## What stays unchanged -/

/-- Every byte of both arrays reads as before, and the controllers' operations in progress are the same. -/
structure SameArrays (s t : State) : Prop where
  flash : ∀ a, t.flashByte a = s.flashByte a
  eeprom : ∀ a, t.eepromByte a = s.eepromByte a
  flashOp : t.flashOp = s.flashOp
  eepromOp : t.eepromOp = s.eepromOp

/-- The receiver's registers, the timer and FRAME are unchanged. -/
structure SameReceiver (s t : State) : Prop where
  rx : t.rx = s.rx
  tmr : t.tmr = s.tmr
  frame : t.frame = s.frame

/-- The CPU's interrupt enable and its saved copy are unchanged. -/
structure SameGie (s t : State) : Prop where
  gie : t.gie = s.gie
  gieSave : t.gieSave = s.gieSave

/-- The output ports and the event stream are unchanged. -/
structure SameOutputs (s t : State) : Prop where
  ports : t.ports = s.ports
  ev : t.ev = s.ev

/-- The parameters, the inputs to come and the time are unchanged. -/
structure SameWorld (s t : State) : Prop where
  params : t.params = s.params
  inputs : t.inputs = s.inputs
  tick : t.tick = s.tick

/-- Everything a command's own step leaves alone: all but SEQ, the flash engine's registers, the EEPROM sequence's
registers and the transient pointer. -/
structure SameButSequencing (s t : State) : Prop where
  arrays : SameArrays s t
  receiver : SameReceiver s t
  gie : SameGie s t
  outputs : SameOutputs s t
  world : SameWorld s t
  bsq : t.bsq = s.bsq

/-- A tick's part outside the active rule, where no controller has anything in progress: time passes, and nothing else. -/
structure TimePasses (s t : State) : Prop where
  params : t.params = s.params
  inputs : t.inputs = s.inputs.drop 1
  tick : t.tick = s.tick + 1

/-- FLASH reads as before outside [a, a + n). -/
abbrev SameFlashOutside (a n : Nat) (s t : State) : Prop := ∀ x, ¬(a ≤ x ∧ x < a + n) → t.flashByte x = s.flashByte x

/-! ## Invariants -/

/-- The page of an operation exists. -/
abbrev State.OpInFlash (s : State) : Prop :=
  match s.flashOp with
  | some op => op.pb.toNat + 64 ≤ s.params.flashSize
  | none => True

/-- Both arrays are in their canonical form, inside their sizes. -/
structure State.ArraysOk (s : State) : Prop where
  flash : Memory.wf (flashBlank s.params) s.params.flashSize s.flash = true
  eeprom : Memory.wf eepromBlank 512 s.eeprom = true
  op : s.OpInFlash

/-- The page is an application page: a page base below BOOTLOADER_START (R66, R73). -/
abbrev AppPage (p : Params) (pb : Word) : Prop := pb.toNat % 64 = 0 ∧ pb.toNat < p.blStart

/-- Whatever the flash engine or the controller is working on is an application page (R73). -/
structure State.Protected (s : State) : Prop where
  fpe : s.fpe.state ≠ .idle → AppPage s.params s.fpe.pb
  op : ∀ op, s.flashOp = some op → AppPage s.params op.pb

/-- SEQ is one of the two values at which FPE runs (R160). -/
abbrev State.FpeCalled (s : State) : Prop := s.seq = .program ∨ s.seq = .exitP

/-- The flash engine runs for exactly one caller, the controller works exactly while the engine waits for it, and
interrupts are masked from the step after ENTER to DONE and from the step after NEXT to ISSUE (R34, R160, R162 to R166,
R231). -/
structure State.EnginesOk (s : State) : Prop where
  called : s.fpe.state ≠ .idle → s.FpeCalled
  program : s.seq = .program → s.fpe.state ≠ .idle
  erasing : s.fpe.state = .eraseWait → s.flashOp = some (.erase s.fpe.pb)
  writing : s.fpe.state = .writeWait → s.flashOp = some (.write s.fpe.pb s.fpe.pbuf)
  settled : s.fpe.state ≠ .eraseWait → s.fpe.state ≠ .writeWait → s.flashOp = none
  flashMasked : s.fpe.state ≠ .idle → s.fpe.state ≠ .enter → s.gie = false
  eepromMasked : s.seq = .eeprom → s.ee.state ≠ .next → s.gie = false

/-- The receiver's registers keep the ranges R23 and R141 give them once a reception has written them, and reception never
fails (R134, by D6, log entry 25). -/
structure State.ReceiverOk (s : State) : Prop where
  calibrating : s.seq = .receive → s.rx.entry = false → s.rx.state = .cal →
    s.rx.n.toNat < 16 ∧ s.rx.s.toNat ≤ 255 * (s.rx.n.toNat - 8)
  measured : s.seq = .receive → s.rx.entry = false → s.rx.state ≠ .waitE0 → s.rx.state ≠ .cal → s.rx.d.toNat ≤ 191
  counting : s.seq = .receive → s.rx.entry = false → s.rx.state = .dataEdge ∨ s.rx.state = .dataDelay →
    s.rx.bitcnt.toNat < 568
  received : s.seq = .decode → s.rx.ok = true
  notFatal : s.seq ≠ .fatal

/-- The two counted sequences stay within their bounds (R29, R30, R231, R283). -/
structure State.CountersOk (s : State) : Prop where
  polls : s.seq = .bootPoll → s.bsq.cnt ≤ s.params.bootThreshold
  bytes : s.seq = .eeprom → s.ee.i.toNat ≤ s.ee.len.toNat
  issuing : s.seq = .eeprom → s.ee.state ≠ .next → s.ee.i.toNat < s.ee.len.toNat

/-- The handoff port is driven exactly while control is handed over (R35). -/
abbrev State.HandoffOk (s : State) : Prop := s.ports.hoValid = true ↔ s.seq = .halted

/-! ## Sequences of ticks -/

/-- The ticks of one flash command, from the tick that issues it to the one at which it completes (R64, R164, R165):
issue, any number of busy ticks, and the first tick at which fl_busy reads 0. -/
structure CommandTicks (es : List Inputs) : Prop where
  shape : ∃ issue busy free, es = issue :: busy ++ [free] ∧ FlashBusy busy ∧ free.flBusy = false

/-- The ticks of one byte of the EEPROM sequence (R231): NEXT, the WAIT ticks up to the first at which ee_busy reads 0, and
ISSUE. -/
structure ByteTicks (es : List Inputs) : Prop where
  shape : ∃ next busy free issue, es = next :: busy ++ [free, issue] ∧ EepromBusy busy ∧ free.eeBusy = false

/-- The value of byte i of a WriteEEPROM: the payload's, and past it the draw of the byte's ISSUE tick (R231, U5). -/
def sequenceByte (f : Fields) (blocks : List (List Inputs)) (i : Nat) : Byte :=
  if h : i < 64 then f.payload[i] else ((blocks.getD i []).getLastD Inputs.quiet).drawByte

/-- The writes of a WriteEEPROM in order, as (array address, value) (R67, R231, R232). -/
def sequenceWrites (f : Fields) (blocks : List (List Inputs)) : List (Nat × Byte) :=
  (List.range f.length.toNat).map fun i =>
    (eepromClamp (pageOperand f + BitVec.ofNat 16 i), sequenceByte f blocks i)

/-- What an address that held v holds after the writes, the last one to it winning. -/
def afterWrites (ws : List (Nat × Byte)) (a : Nat) (v : Byte) : Byte :=
  ws.foldl (fun u w => if w.1 = a then w.2 else u) v

/-! ## Views and labels -/

/-- The line seen upside down: the present reference level and every scripted line level complemented (R90). -/
def State.complementLine (s : State) : State :=
  { s with
    rx := { s.rx with l := !s.rx.l }
    inputs := s.inputs.map fun e => { e with rxIn := !e.rxIn } }

/-- The state with FRAME[5..6] replaced (R94, R100). -/
def State.withChecksum (b0 b1 : Byte) (s : State) : State := { s with frame := (s.frame.set 5 b0).set 6 b1 }

/-- The next state of an outcome changed by f; a fault or a refusal stays. -/
def mapNext (f : State → State) : Host.Outcome State Fault Refusal → Host.Outcome State Fault Refusal
  | .next t => .next (f t)
  | .fault r => .fault r
  | .refused r => .refused r

/-- The view of the entry pointer the source's design note suggests (R202): derived, not state. -/
inductive PointerView where
  | unset
  | transient (addr : Word)
  | persisted (addr : Word)
  deriving DecidableEq, Repr

/-- R202's view, given what the run's history tells: an interception since reset, and an EXIT_P that wrote ENTRY_P. -/
def State.pointerView (intercepted persisted : Bool) (s : State) : PointerView :=
  if intercepted then .transient s.entryT else if persisted then .persisted s.entryP else .unset

/-- The outcome labels of R251 (D34): for a model, not hardware state. -/
inductive OutcomeCode where
  /-- A framing or decoding error: nothing detects it, the frame runs as received (R253). -/
  | undetected
  /-- A Program at or above BOOTLOADER_START: ignored in silence (R254). -/
  | ignored
  /-- A busy flag that does not clear: a wait without bound (R255). -/
  | stall
  /-- Reception failure (R252). -/
  | fatal
  deriving DecidableEq, Repr

/-- The label of what the present tick meets, where the block's own state shows it; OC_UNDETECTED shows nowhere (R251). -/
def State.outcomeCode (s : State) : Option OutcomeCode :=
  if s.seq = .fatal ∨ (s.seq = .decode ∧ s.rx.ok = false) then some .fatal
  else if s.FpeCalled ∧ (s.fpe.state = .eraseWait ∨ s.fpe.state = .writeWait) ∧ s.now.flBusy = true then some .stall
  else if s.seq = .eeprom ∧ s.ee.state = .wait ∧ s.now.eeBusy = true then some .stall
  else if s.seq = .decode then
    match fetchFrame s with
    | .cmdProgram f => if selfProtected s.params (pageOperand f) then some .ignored else none
    | _ => none
  else none

/-- How a run ends (R265): a handoff and a bypass are normal ends, FATAL is a fault, and the rest are infinite runs. -/
inductive RunEnd where
  | handoff
  | bypass
  | fatal
  deriving DecidableEq, Repr

/-- The end a terminal state stands for (R42, R265); every other state goes on. -/
def State.runEnd (s : State) : Option RunEnd :=
  match s.seq with
  | .halted => some .handoff
  | .bypassed => some .bypass
  | .fatal => some .fatal
  | _ => none

end Sys2Proof.Machine
end

