-- ==== Sys2Proof/Certificates/Slice0/Obligations.lean ====
section
/-! DEFINITION. The statements for the provers.

`s.now` is the draws of the coming tick, and `s.beginTick e` the state in which a tick with the draws e has begun;
`BeginTickPassesTime`, `FlashControllerContract` and `EepromCollaboratorContract` say what that is. -/

open Sys2Proof
open Sys2Proof.Machine

/-! ## Encodings -/

/-- Decoding the bytes of a well-formed instruction gives it back, with every operand at every value. -/
def Obligations.DecodeEncodeRoundTrip : Prop :=
  ∀ (p : Params) (i : Instr), i.WellFormed p = true → decode p i.format (encode p i) = .ok i

/-- Every byte string that decodes is the encoding of exactly the instruction read: no two instructions share bytes, and no
bit of a frame or a host word is dropped. -/
def Obligations.EncodeDecodeRoundTrip : Prop :=
  ∀ (p : Params) (fmt : Format) (bs : List Byte) (i : Instr), decode p fmt bs = .ok i →
    i.format = fmt ∧ encode p i = bs ∧ i.WellFormed p = true

/-- R101: each frame content selects exactly one row of the table, by FRAME[0] alone, and the instruction the decoder
answers is that row's, with the frame's fields as R95 assembles them. -/
def Obligations.EveryFrameSelectsOneRow : Prop :=
  ∀ fr : FrameBuf, ∃ r ∈ cmdRows, (decodeFrame fr).cmdRow = some r ∧ (decodeFrame fr).fields = some (decodeFields fr) ∧
    ∀ r' ∈ cmdRows, r'.selects fr[0] = true ↔ r' = r

/-- A few words written out from R94, R96 and R104 decode to the instructions they stand for, under the example parameters
(the model's choice, log entry 1); that FF CD, which is also a relative jump, reads as `entryJumpWord` is log entry 8. -/
def Obligations.TableWordsDecode : Prop :=
  (∃ f : Fields, decode Params.example8k .frame ([0x02, 0x03, 0x00, 0x40, 0x00, 0x34, 0x12, 0xFF, 0xC0] ++ List.replicate 62 0)
      = .ok (.cmdProgram f) ∧
      f.pageNumber = 3 ∧ f.length = 64 ∧ f.checksum = 0x1234 ∧ f.payload[0] = 0xFF ∧ f.payload[1] = 0xC0) ∧
  (∃ f : Fields, decode Params.example8k .frame (0x03 :: List.replicate 70 0) = .ok (.cmdRun f)) ∧
  (∃ f : Fields, decode Params.example8k .frame (0x80 :: List.replicate 70 0) = .ok (.cmd80ToFF 0 f)) ∧
  decode Params.example8k .hostWord [0xFF, 0xC0] = .ok (.rjmp 0x0FF) ∧
  decode Params.example8k .hostWord [0xFF, 0xCD] = .ok .entryJumpWord ∧
  decode Params.example8k .hostWord [0x0C, 0x94] = .error (.notRelativeJump 0x940C)

/-- R106: a host word is read as an instruction if and only if its bits 15..12 are 0xC. -/
def Obligations.OnlyRelativeJumpsAreHostInstructions : Prop :=
  ∀ (p : Params) (w : Word),
    (w.toNat / 4096 = 0xC → ∃ i, decodeHostWord p w = .ok i) ∧
      (w.toNat / 4096 ≠ 0xC → decodeHostWord p w = .error (.notRelativeJump w))

/-- R108: where FLASH_WORDS divides 4096, the entry jump written at word 0 reaches every even bootloader entry. -/
def Obligations.EntryJumpReachesTheEntry : Prop :=
  ∀ p : Params, p.flashSize % 64 = 0 → flashWords p ∣ 4096 → p.blEntry % 2 = 0 → p.blEntry < p.flashSize →
    rjmpTarget p (entryJumpWord p) 0 = entryWordAddr p

/-! ## The instructions -/

/-- No command's own step stops, and none of them touches an array, the receiver, the interrupt enable, an output, or the
boot sequencer: what a command does to those, the states it starts do (R222, R250). -/
def Obligations.EveryInstructionRunsAndOnlySequences : Prop :=
  ∀ (i : Instr) (s : State), ∃ t, exec i s = .next t ∧ SameButSequencing s t

/-- The commands without an effect (R97, R223, R224, R228, R229): SEQ <- CLEAR and nothing else, whatever the frame's other
fields; and every frame whose command byte is not 2, 3 or 4 is one of them. -/
def Obligations.NoEffectCommandsOnlyContinue : Prop :=
  ∀ (f : Fields) (s : State),
    exec (.cmdNone f) s = .next { s with seq := .clear } ∧
    exec (.cmdTest f) s = .next { s with seq := .clear } ∧
    exec (.cmdExit f) s = .next { s with seq := .clear } ∧
    (∀ b, exec (.cmd06To07 b f) s = .next { s with seq := .clear }) ∧
    (∀ b, exec (.cmd08To0F b f) s = .next { s with seq := .clear }) ∧
    (∀ b, exec (.cmd10To1F b f) s = .next { s with seq := .clear }) ∧
    (∀ b, exec (.cmd20To3F b f) s = .next { s with seq := .clear }) ∧
    (∀ b, exec (.cmd40To7F b f) s = .next { s with seq := .clear }) ∧
    (∀ b, exec (.cmd80ToFF b f) s = .next { s with seq := .clear }) ∧
    ∀ fr : FrameBuf, fr[0] ≠ 0x02 → fr[0] ≠ 0x03 → fr[0] ≠ 0x04 →
      exec (decodeFrame fr) s = .next { s with seq := .clear }

/-- Program (R225): addr = (page_number * 64) mod 65536; at or above BOOTLOADER_START the frame is ignored, below it PAGE
is started on exactly that page with the payload as its buffer (R161). -/
def Obligations.ProgramStartsOrIgnores : Prop :=
  ∀ (f : Fields) (s : State),
    (s.params.blStart ≤ (f.pageNumber.toNat * 64) % 65536 → exec (.cmdProgram f) s = .next { s with seq := .clear }) ∧
    ((f.pageNumber.toNat * 64) % 65536 < s.params.blStart → ∃ t, exec (.cmdProgram f) s = .next t ∧
      t.seq = .program ∧ t.fpe.state = .enter ∧ t.fpe.mode = .page ∧
      t.fpe.pb.toNat = (f.pageNumber.toNat * 64) % 65536 ∧ t.fpe.pbuf = f.payload ∧
      t.fpe.mrgA = s.fpe.mrgA ∧ t.fpe.mrgLen = s.fpe.mrgLen ∧ t.fpe.mrgData = s.fpe.mrgData ∧
      t.entryT = s.entryT ∧ t.ee = s.ee ∧ SameButSequencing s t)

/-- Run (R226): SEQ <- EXIT_P and nothing else; every other field is ignored. -/
def Obligations.RunGoesToThePersistingExit : Prop :=
  ∀ (f : Fields) (s : State), exec (.cmdRun f) s = .next { s with seq := .exitP }

/-- WriteEEPROM (R227): the sequence starts at byte 0 of `length` bytes from (page_number * 64) mod 65536. -/
def Obligations.WriteEepromStartsTheSequence : Prop :=
  ∀ (f : Fields) (s : State), ∃ t, exec (.cmdWriteEeprom f) s = .next t ∧
    t.seq = .eeprom ∧ t.ee.state = .next ∧ t.ee.base.toNat = (f.pageNumber.toNat * 64) % 65536 ∧
    t.ee.len = f.length ∧ t.ee.i = 0 ∧ t.fpe = s.fpe ∧ t.entryT = s.entryT ∧ SameButSequencing s t

/-- Interception (R163, R190, R107) of a relative jump with offset k: ENTRY_T is its target, the page buffer's word 0
becomes ENTRY_JUMP_WORD, its other bytes and everything else stay. -/
def Obligations.RelativeJumpIsIntercepted : Prop :=
  ∀ (k : BitVec 12) (s : State), ParamsValid s.params → ∃ t, exec (.rjmp k) s = .next t ∧
    (t.entryT.toNat : Int) = (1 + k.toInt) % ((s.params.flashSize / 2 : Nat) : Int) ∧
    t.fpe.pbuf[0] = loByte (entryJumpWord s.params) ∧ t.fpe.pbuf[1] = hiByte (entryJumpWord s.params) ∧
    (∀ j, (h : j < 64) → 2 ≤ j → t.fpe.pbuf[j] = s.fpe.pbuf[j]) ∧
    t.fpe.state = .erase ∧ t.fpe.mode = s.fpe.mode ∧ t.fpe.pb = s.fpe.pb ∧
    t.fpe.mrgA = s.fpe.mrgA ∧ t.fpe.mrgLen = s.fpe.mrgLen ∧ t.fpe.mrgData = s.fpe.mrgData ∧
    t.seq = s.seq ∧ t.ee = s.ee ∧ SameButSequencing s t

/-- Interception of ENTRY_JUMP_WORD itself (R174, R190, R298; it is a constructor of its own by log entry 8): ENTRY_T
becomes BOOTLOADER_ENTRY / 2, and a buffer that starts with the word keeps its contents. -/
def Obligations.EntryJumpIsInterceptedAsItself : Prop :=
  ∀ s : State, ParamsValid s.params → ∃ t, exec .entryJumpWord s = .next t ∧
    t.entryT.toNat = s.params.blEntry / 2 ∧
    t.fpe.pbuf[0] = loByte (entryJumpWord s.params) ∧ t.fpe.pbuf[1] = hiByte (entryJumpWord s.params) ∧
    (le16 s.fpe.pbuf[0] s.fpe.pbuf[1] = entryJumpWord s.params → t.fpe.pbuf = s.fpe.pbuf) ∧
    (∀ j, (h : j < 64) → 2 ≤ j → t.fpe.pbuf[j] = s.fpe.pbuf[j]) ∧
    t.fpe.state = .erase ∧ t.fpe.mode = s.fpe.mode ∧ t.fpe.pb = s.fpe.pb ∧
    t.fpe.mrgA = s.fpe.mrgA ∧ t.fpe.mrgLen = s.fpe.mrgLen ∧ t.fpe.mrgData = s.fpe.mrgData ∧
    t.seq = s.seq ∧ t.ee = s.ee ∧ SameButSequencing s t

/-! ## The step -/

/-- R222: at DECODE, after a successful reception, one step is the received command on the state in which the tick has
begun. -/
def Obligations.DecodeStepRunsTheReceivedFrame : Prop :=
  ∀ s : State, ParamsValid s.params → s.now.event = .quiet → s.seq = .decode → s.rx.ok = true →
    step s = exec (decodeFrame s.frame) (s.beginTick s.now)

/-- R163, R191: at INTERCEPT on the reset-vector page, one step is the host word the page buffer starts with; on any other
page, or on a word that is no relative jump, only FPE_STATE moves on. -/
def Obligations.InterceptStepRunsTheHostWord : Prop :=
  ∀ s : State, ParamsValid s.params → s.now.event = .quiet → s.FpeCalled → s.fpe.state = .intercept →
    (∀ i, s.fpe.pb = 0 → decode s.params .hostWord [s.fpe.pbuf[0], s.fpe.pbuf[1]] = .ok i →
      step s = exec i (s.beginTick s.now)) ∧
    (s.fpe.pb ≠ 0 ∨ isRjmp (le16 s.fpe.pbuf[0] s.fpe.pbuf[1]) = false →
      step s = .next { s.beginTick s.now with fpe := { s.fpe with state := .erase } })

/-- The part of a tick outside the active rule (R24, R64, R67, R121): TMR counts modulo 256, the one-tick ports return to
idle, the tick's inputs are used up; every register, both interrupt bits, the events, the handoff port and, with no
operation in progress, both arrays are unchanged.
That fl_pb, fl_data, fl_rdaddr, ee_addr and ee_data keep their last values is the model's choice (log entries 23 and
31). -/
def Obligations.BeginTickPassesTime : Prop :=
  ∀ (e : Inputs) (s : State),
    (s.beginTick e).tmr.toNat = (s.tmr.toNat + 1) % 256 ∧
    (s.beginTick e).ports = { s.ports with flCmd := .none, eeReq := false } ∧
    TimePasses s (s.beginTick e) ∧ SameGie s (s.beginTick e) ∧
    (s.beginTick e).seq = s.seq ∧ (s.beginTick e).rx = s.rx ∧ (s.beginTick e).frame = s.frame ∧
    (s.beginTick e).fpe = s.fpe ∧ (s.beginTick e).entryT = s.entryT ∧ (s.beginTick e).ee = s.ee ∧
    (s.beginTick e).bsq = s.bsq ∧ (s.beginTick e).ev = s.ev ∧
    (s.flashOp = none → s.eepromOp = none → SameArrays s (s.beginTick e))

/-- R64: a page under operation is settled by the first tick at which fl_busy reads 0, and by none before it; every other
byte stays. -/
def Obligations.FlashControllerContract : Prop :=
  ∀ (s : State) (e : Inputs) (op : FlashOp), s.ArraysOk → s.flashOp = some op →
    (e.flBusy = true → (s.beginTick e).flashOp = some op ∧ SameFlashOutside op.pb.toNat 64 s (s.beginTick e)) ∧
    (e.flBusy = false → (s.beginTick e).flashOp = none ∧ SameFlashOutside op.pb.toNat 64 s (s.beginTick e) ∧
      ∀ j, (h : j < 64) → (s.beginTick e).flashByte (op.pb.toNat + j) =
        match op with
        | .erase _ => s.params.erasedByte
        | .write _ data => data[j])

/-- R67, R68: a write at a reaches EEPROM[min(a, 511)] at the first tick at which ee_busy reads 0, and no other byte. -/
def Obligations.EepromCollaboratorContract : Prop :=
  ∀ (s : State) (e : Inputs) (a : Word) (v : Byte), s.ArraysOk → s.eepromOp = some { addr := a, data := v } →
    (∀ x, x ≠ min a.toNat 511 → (s.beginTick e).eepromByte x = s.eepromByte x) ∧
    (e.eeBusy = true → (s.beginTick e).eepromOp = some { addr := a, data := v }) ∧
    (e.eeBusy = false → (s.beginTick e).eepromOp = none ∧ (s.beginTick e).eepromByte (min a.toNat 511) = v)

/-- Only RX reads or writes TMR (R24, R121): outside RECEIVE a step does the same whatever TMR holds, and leaves it counted
on. -/
def Obligations.TimerIsTheReceiversAlone : Prop :=
  ∀ (s : State) (v : BitVec 8), s.now.event = .quiet → s.seq ≠ .receive →
    step { s with tmr := v } = mapNext (fun t => { t with tmr := v + 1 }) (step s)

/-- R42: after a handoff and after a bypass no tick changes a register, an event or an array, but that TMR counts on (R121,
log entry 10) and a write still pending completes (R295); the ports are those of the begun tick (R35, log entries 23 and
31). -/
def Obligations.HandedOverBlockHolds : Prop :=
  ∀ s : State, ParamsValid s.params → s.now.event = .quiet ∨ s.now.event = .interrupt →
    s.seq = .halted ∨ s.seq = .bypassed → ∃ t, step s = .next t ∧
    t.seq = s.seq ∧ SameReceiver { s with tmr := s.tmr + 1 } t ∧ t.fpe = s.fpe ∧ SameGie s t ∧ t.entryT = s.entryT ∧
    t.ee = s.ee ∧ t.bsq = s.bsq ∧ t.ev = s.ev ∧ t.ports = { s.ports with flCmd := .none, eeReq := false } ∧
    TimePasses s t ∧ (s.flashOp = none → s.eepromOp = none → SameArrays s t)

/-- R42, R252, R265: FATAL does nothing more; the model reports it as the fault RX_FAIL (its own choice, log entry 11), and only
a reset leads out. -/
def Obligations.FatalIsLeftByResetOnly : Prop :=
  ∀ s : State, ParamsValid s.params → s.seq = .fatal →
    (s.now.event ≠ .reset → step s = .fault .rxFail) ∧ (s.now.event = .reset → step s = .next (s.takeReset s.now))

/-- R221, R252: a failed reception raises FATAL, with one FATAL_BLINK and no other change. -/
def Obligations.FailedReceptionRaisesFatal : Prop :=
  ∀ s : State, ParamsValid s.params → s.now.event = .quiet → s.seq = .decode → s.rx.ok = false →
    step s = .next { s.beginTick s.now with seq := .fatal, ev := s.ev ++ [.fatalBlink] }

/-- R230: CLEAR resets the command byte and re-enters RECEIVE. -/
def Obligations.ClearResetsTheCommandByte : Prop :=
  ∀ s : State, ParamsValid s.params → s.now.event = .quiet → s.seq = .clear → ∃ t, step s = .next t ∧
    t.seq = .receive ∧ t.rx = { s.rx with entry := true } ∧ t.frame[0] = 0x00 ∧
    (∀ i, (h : i < 71) → i ≠ 0 → t.frame[i] = s.frame[i]) ∧ t.ev = s.ev ∧ t.entryT = s.entryT ∧ t.fpe = s.fpe ∧
    SameGie s t ∧ TimePasses s t ∧ (s.flashOp = none → s.eepromOp = none → SameArrays s t)

/-- R100: the checksum bytes of a frame change nothing: outside RECEIVE, two states that differ in FRAME[5..6] alone step
alike. -/
def Obligations.ChecksumIsNeverRead : Prop :=
  ∀ (s : State) (b0 b1 : Byte), s.now.event = .quiet → s.seq ≠ .receive →
    step (s.withChecksum b0 b1) = mapNext (fun t => t.withChecksum b0 b1) (step s)

/-! ## The boot sequencer -/

/-- R282: BOOT_START. -/
def Obligations.BootStartSamplesTheHoldLevel : Prop :=
  ∀ s : State, ParamsValid s.params → s.now.event = .quiet → s.seq = .bootStart →
    step s = .next
      { s.beginTick s.now with bsq := { lref := s.now.bootIn, cnt := 0 }, ev := s.ev ++ [.statusOn], seq := .bootPoll }

/-- R283 to R285: one poll. The line is tested before the counter. -/
def Obligations.BootPollTestsTheLineFirst : Prop :=
  ∀ s : State, ParamsValid s.params → s.now.event = .quiet → s.seq = .bootPoll →
    (s.now.bootIn ≠ s.bsq.lref →
      step s = .next { s.beginTick s.now with ev := s.ev ++ [.statusOff], seq := .exitNp }) ∧
    (s.now.bootIn = s.bsq.lref → s.bsq.cnt + 1 ≤ s.params.bootThreshold →
      step s = .next { s.beginTick s.now with bsq := { s.bsq with cnt := s.bsq.cnt + 1 } }) ∧
    (s.now.bootIn = s.bsq.lref → s.params.bootThreshold < s.bsq.cnt + 1 →
      step s = .next
        { s.beginTick s.now with
          bsq := { s.bsq with cnt := s.bsq.cnt + 1 }
          ev := s.ev ++ [.statusOff]
          seq := .receive
          rx := { s.rx with entry := true } })

/-- R283, R284: with the line held at either level, BSQ falls through at the (BOOT_THRESHOLD + 1)-th poll, with FLASH and
the EEPROM untouched. -/
def Obligations.HeldLineFallsThrough : Prop :=
  ∀ (s : State) (b0 : Inputs) (polls rest : List Inputs), ParamsValid s.params → s.seq = .bootStart →
    s.flashOp = none → s.eepromOp = none → s.inputs = b0 :: polls ++ rest → polls.length = s.params.bootThreshold + 1 →
    AllQuiet (b0 :: polls) → BootHeld b0.bootIn polls → ∃ t, run (s.params.bootThreshold + 2) s = .next t ∧
    t.seq = .receive ∧ t.rx.entry = true ∧ t.ev = s.ev ++ [.statusOn, .statusOff] ∧
    t.bsq.cnt = s.params.bootThreshold + 1 ∧ t.entryT = s.entryT ∧ t.inputs = rest ∧ SameArrays s t

/-- R283, R285, R194: a change at any poll, the one that would have reached the threshold included, hands off to ENTRY_P
with no flash write; that EXIT_NP takes one tick is the model's choice (log entry 22). -/
def Obligations.BootLineChangeHandsOff : Prop :=
  ∀ (s : State) (b0 : Inputs) (polls : List Inputs) (ch ex : Inputs) (rest : List Inputs), ParamsValid s.params →
    s.seq = .bootStart → s.flashOp = none → s.eepromOp = none → s.inputs = b0 :: polls ++ ch :: ex :: rest →
    polls.length ≤ s.params.bootThreshold → AllQuiet (b0 :: polls ++ [ch, ex]) → BootHeld b0.bootIn polls →
    ch.bootIn ≠ b0.bootIn → ∃ t, run (polls.length + 3) s = .next t ∧
    t.seq = .halted ∧ t.ports.hoValid = true ∧ t.ports.hoTarget = s.entryP ∧ t.entryT = s.entryP ∧
    t.ev = s.ev ++ [.statusOn, .statusOff] ∧ SameArrays s t

/-! ## The receiver -/

/-- R122: the first tick with SEQ = RECEIVE takes the reference level; a transition at this very tick is no edge. -/
def Obligations.ReceiveEntryTakesTheReference : Prop :=
  ∀ s : State, ParamsValid s.params → s.now.event = .quiet → s.seq = .receive → s.rx.entry = true →
    step s = .next
      { s.beginTick s.now with rx := { s.rx with l := s.now.rxIn, state := .waitE0, entry := false } }

/-- R123, R128, R131: the three waits for an edge that only note it; each resets the timer, and without an edge nothing
moves (R137, R138). -/
def Obligations.EdgeWaitsLockThePhase : Prop :=
  ∀ s : State, ParamsValid s.params → s.now.event = .quiet → s.seq = .receive → s.rx.entry = false →
    (s.rx.state = .waitE0 ∨ s.rx.state = .cal ∨ s.rx.state = .markEdge ∨ s.rx.state = .dataEdge →
      s.now.rxIn = s.rx.l → step s = .next (s.beginTick s.now)) ∧
    (s.now.rxIn ≠ s.rx.l →
      (s.rx.state = .waitE0 → step s = .next
        { s.beginTick s.now with rx := { s.rx with l := s.now.rxIn, n := 0, s := 0, state := .cal }, tmr := 0 }) ∧
      (s.rx.state = .markEdge → step s = .next
        { s.beginTick s.now with rx := { s.rx with l := s.now.rxIn, state := .markDelay }, tmr := 0 }) ∧
      (s.rx.state = .dataEdge → step s = .next
        { s.beginTick s.now with rx := { s.rx with l := s.now.rxIn, state := .dataDelay }, tmr := 0 }))

/-- R124, R125: a calibration edge. Intervals 1 to 8 are discarded and 9 to 16 summed; the sixteenth sets
RX_D = floor(3 * RX_S / 32). The hypotheses are the ranges `ReceiverOk` gives. -/
def Obligations.CalibrationMeasuresTheBitPeriod : Prop :=
  ∀ s : State, ParamsValid s.params → s.now.event = .quiet → s.ReceiverOk → s.seq = .receive → s.rx.entry = false →
    s.rx.state = .cal → s.now.rxIn ≠ s.rx.l → ∃ t, step s = .next t ∧
    t.rx.l = s.now.rxIn ∧ t.tmr = 0 ∧ t.rx.n.toNat = s.rx.n.toNat + 1 ∧
    t.rx.s.toNat = s.rx.s.toNat + (if 8 ≤ s.rx.n.toNat then (s.tmr.toNat + 1) % 256 else 0) ∧
    (s.rx.n.toNat < 15 → t.rx.state = .cal ∧ t.rx.d = s.rx.d) ∧
    (s.rx.n.toNat = 15 → t.rx.state = .markDelay ∧ t.rx.d.toNat = 3 * t.rx.s.toNat / 32) ∧
    t.rx.bitcnt = s.rx.bitcnt ∧ t.rx.ok = s.rx.ok ∧ t.frame = s.frame ∧ t.seq = .receive

/-- R126, R127, R130: nothing is looked at before tmr >= RX_D; then a change since the boundary is the start marker, which
is not emitted as data, and no change is one more training cell. -/
def Obligations.MarkerIsTheFirstOneCell : Prop :=
  ∀ s : State, ParamsValid s.params → s.now.event = .quiet → s.seq = .receive → s.rx.entry = false →
    s.rx.state = .markDelay →
    ((s.tmr.toNat + 1) % 256 < s.rx.d.toNat → step s = .next (s.beginTick s.now)) ∧
    (s.rx.d.toNat ≤ (s.tmr.toNat + 1) % 256 → s.now.rxIn ≠ s.rx.l → step s = .next
      { s.beginTick s.now with rx := { s.rx with l := s.now.rxIn, bitcnt := 0, state := .dataEdge } }) ∧
    (s.rx.d.toNat ≤ (s.tmr.toNat + 1) % 256 → s.now.rxIn = s.rx.l → step s = .next
      { s.beginTick s.now with rx := { s.rx with state := .markEdge } })

/-- R126, R132, R133, R134: data bit i is 1 exactly where the level changed since the boundary; it goes to bit 7 - (i mod 8)
of FRAME[i / 8] and no other bit of FRAME moves; bit 567 ends the reception with RX_OK = 1. -/
def Obligations.DataBitIsSampledAndPacked : Prop :=
  ∀ s : State, ParamsValid s.params → s.now.event = .quiet → s.seq = .receive → s.rx.entry = false →
    s.rx.state = .dataDelay → s.rx.bitcnt.toNat < 568 →
    ((s.tmr.toNat + 1) % 256 < s.rx.d.toNat → step s = .next (s.beginTick s.now)) ∧
    (s.rx.d.toNat ≤ (s.tmr.toNat + 1) % 256 → ∃ t, step s = .next t ∧
      (∀ i, i < 568 → dataBit t.frame i =
        if i = s.rx.bitcnt.toNat then s.now.rxIn != s.rx.l else dataBit s.frame i) ∧
      t.rx.l = s.now.rxIn ∧ t.rx.bitcnt.toNat = s.rx.bitcnt.toNat + 1 ∧ t.rx.d = s.rx.d ∧
      t.tmr.toNat = (s.tmr.toNat + 1) % 256 ∧
      (s.rx.bitcnt.toNat < 567 → t.seq = .receive ∧ t.rx.state = .dataEdge ∧ t.rx.ok = s.rx.ok) ∧
      (s.rx.bitcnt.toNat = 567 → t.seq = .decode ∧ t.rx.ok = true))

/-- R17, R120, R139: no other engine steps during a reception. -/
def Obligations.ReceptionTouchesOnlyTheReceiver : Prop :=
  ∀ s : State, ParamsValid s.params → s.now.event = .quiet → s.seq = .receive → ∃ t, step s = .next t ∧
    (t.seq = .receive ∨ t.seq = .decode) ∧ t.fpe = s.fpe ∧ SameGie s t ∧ t.entryT = s.entryT ∧ t.ee = s.ee ∧
    t.bsq = s.bsq ∧ t.ev = s.ev ∧ t.ports = (s.beginTick s.now).ports ∧ TimePasses s t ∧
    (s.flashOp = none → s.eepromOp = none → SameArrays s t)

/-- R126, R131, R132, R136, R138: a data cell is decoded from its boundary level and the one sample max(RX_D, 1) ticks after
its boundary; the levels in between are not looked at, and the timing of earlier cells does not matter (R135). -/
def Obligations.CellIsDecodedAtItsSampleTick : Prop :=
  ∀ (s : State) (boundary : Inputs) (between : List Inputs) (sample : Inputs) (rest : List Inputs),
    ParamsValid s.params → s.seq = .receive → s.rx.entry = false → s.rx.state = .dataEdge → s.rx.bitcnt.toNat < 567 →
    s.inputs = boundary :: between ++ sample :: rest → AllQuiet (boundary :: between ++ [sample]) →
    boundary.rxIn ≠ s.rx.l → between.length + 1 = max s.rx.d.toNat 1 → ∃ t, run (max s.rx.d.toNat 1 + 1) s = .next t ∧
    t.seq = .receive ∧ t.rx.state = .dataEdge ∧ t.rx.l = sample.rxIn ∧ t.rx.d = s.rx.d ∧ t.rx.entry = false ∧
    t.rx.bitcnt.toNat = s.rx.bitcnt.toNat + 1 ∧ t.inputs = rest ∧
    (∀ i, i < 568 → dataBit t.frame i =
      if i = s.rx.bitcnt.toNat then sample.rxIn != boundary.rxIn else dataBit s.frame i)

/-- R90: the absolute level carries no information: the complemented line gives the same next state but for the reference
level. -/
def Obligations.ComplementedLineDecodesAlike : Prop :=
  ∀ s : State, s.inputs ≠ [] → s.now.event = .quiet → s.seq = .receive →
    step s.complementLine = mapNext State.complementLine (step s)

/-- R140, R136, R93: self-calibration. Whatever 71 bytes a reference sender puts on the line at a constant period of 2 to
255 ticks, after at least 16 training cells and at either level, the receiver ends with exactly those bytes in FRAME,
whatever FRAME held before. -/
def Obligations.SelfCalibration : Prop :=
  ∀ (p lead n : Nat) (l : Bool) (fr : FrameBuf) (s : State) (es rest : List Inputs), ParamsValid s.params →
    2 ≤ p → p ≤ 255 → 1 ≤ lead → 16 ≤ n → s.seq = .receive → s.rx.entry = true → s.inputs = es ++ rest →
    AllQuiet es → (es.map fun e => e.rxIn) = envelope p lead n l fr → ∃ k t, k ≤ es.length ∧ run k s = .next t ∧
    t.seq = .decode ∧ t.rx.ok = true ∧ t.frame = fr

/-! ## The flash engine -/

/-- R162, R166: interrupts are masked at ENTER, the old value saved, and restored at DONE, where the caller continues:
Program with PROGRAM_OK at CLEAR, exit_with_persist with the handoff to ENTRY_T (R195, R199, R225). -/
def Obligations.PageOperationMasksInterrupts : Prop :=
  ∀ s : State, ParamsValid s.params → s.now.event = .quiet →
    (s.FpeCalled → s.fpe.state = .enter → step s = .next
      { s.beginTick s.now with
        gieSave := s.gie
        gie := false
        fpe := { s.fpe with state := if s.fpe.mode = .merge then .assemble else .intercept } }) ∧
    (s.seq = .program → s.fpe.state = .done → step s = .next
      { s.beginTick s.now with
        gie := s.gieSave, fpe := { s.fpe with state := .idle }, ev := s.ev ++ [.programOk], seq := .clear }) ∧
    (s.seq = .exitP → s.fpe.state = .done → step s = .next
      { s.beginTick s.now with
        gie := s.gieSave
        fpe := { s.fpe with state := .idle }
        ports := { (s.beginTick s.now).ports with hoValid := true, hoTarget := s.entryT }
        seq := .halted })

/-- R169: the assembled page holds the merge data where the merge covers it and the current contents elsewhere.
That one tick fills all 64 bytes is the model's choice (log entry 22), and so is what it leaves on fl_rdaddr, either
nothing new or an address the merge does not cover (log entry 31). -/
def Obligations.AssembleReadsThePageBack : Prop :=
  ∀ s : State, ParamsValid s.params → s.now.event = .quiet → s.FpeCalled → s.fpe.state = .assemble → s.Protected →
    s.flashOp = none → ∃ t, step s = .next t ∧ t.fpe.state = .intercept ∧ t.fpe.pb = s.fpe.pb ∧ t.seq = s.seq ∧
    SameGie s t ∧ t.entryT = s.entryT ∧ (∀ a, t.flashByte a = s.flashByte a) ∧
    t.ports = { (s.beginTick s.now).ports with flRdaddr := t.ports.flRdaddr } ∧
    (t.ports.flRdaddr = s.ports.flRdaddr ∨ ∃ j, j < 64 ∧ t.ports.flRdaddr.toNat = s.fpe.pb.toNat + j ∧
      ¬(s.fpe.mrgA.toNat ≤ s.fpe.pb.toNat + j ∧ s.fpe.pb.toNat + j < s.fpe.mrgA.toNat + s.fpe.mrgLen.toNat)) ∧
    ∀ j, (h : j < 64) → t.fpe.pbuf[j] =
      if s.fpe.mrgA.toNat ≤ s.fpe.pb.toNat + j ∧ s.fpe.pb.toNat + j < s.fpe.mrgA.toNat + s.fpe.mrgLen.toNat then
        s.fpe.mrgData.toList.getD (s.fpe.pb.toNat + j - s.fpe.mrgA.toNat) 0
      else s.flashByte (s.fpe.pb.toNat + j)

/-- R164, R165: each of the two commands is issued for one tick on the engine's page, and its wait is left at the first tick
at which fl_busy reads 0. -/
def Obligations.CommandsAreIssuedAndAwaited : Prop :=
  ∀ s : State, ParamsValid s.params → s.now.event = .quiet → s.FpeCalled → s.Protected →
    (s.fpe.state = .erase → step s = .next
      { s.beginTick s.now with
        fpe := { s.fpe with state := .eraseWait }
        ports := { (s.beginTick s.now).ports with flCmd := .erase, flPb := s.fpe.pb }
        flashOp := some (.erase s.fpe.pb) }) ∧
    (s.fpe.state = .write → step s = .next
      { s.beginTick s.now with
        fpe := { s.fpe with state := .writeWait }
        ports := { (s.beginTick s.now).ports with flCmd := .write, flPb := s.fpe.pb, flData := s.fpe.pbuf }
        flashOp := some (.write s.fpe.pb s.fpe.pbuf) }) ∧
    (s.fpe.state = .eraseWait → step s = .next
      { s.beginTick s.now with fpe := { s.fpe with state := if s.now.flBusy then .eraseWait else .write } }) ∧
    (s.fpe.state = .writeWait → step s = .next
      { s.beginTick s.now with fpe := { s.fpe with state := if s.now.flBusy then .writeWait else .done } })

/-- R172, R255: a busy flag that does not clear holds the block where it is, for any number of ticks, in silence. -/
def Obligations.BusyFlagHoldsTheBlock : Prop :=
  ∀ (s : State) (es rest : List Inputs), ParamsValid s.params → s.inputs = es ++ rest → AllQuiet es →
    ((s.FpeCalled ∧ (s.fpe.state = .eraseWait ∨ s.fpe.state = .writeWait) ∧ FlashBusy es) ∨
      (s.seq = .eeprom ∧ s.ee.state = .wait ∧ EepromBusy es)) →
    ∃ t, run es.length s = .next t ∧ t.seq = s.seq ∧ t.fpe = s.fpe ∧ t.ee = s.ee ∧ SameGie s t ∧ t.ev = s.ev ∧
    t.entryT = s.entryT ∧ t.ports.hoValid = s.ports.hoValid ∧ t.inputs = rest

/-- R168: MERGE refuses a range that leaves its page (U10), one of more than 64 bytes and one that leaves FLASH (log entry
20), and takes every other. -/
def Obligations.MergeRefusesACrossingRange : Prop :=
  ∀ (s : State) (a : Word) (data : List Byte),
    (data.length ≠ 0 ∧ a.toNat / 64 ≠ (a.toNat + data.length - 1) / 64 → startMerge a data s = .refused .mergeRange) ∧
    (64 < data.length → startMerge a data s = .refused .mergeRange) ∧
    (s.params.flashSize < a.toNat + data.length → startMerge a data s = .refused .mergeRange) ∧
    (data.length = 0 ∨ a.toNat / 64 = (a.toNat + data.length - 1) / 64 → data.length ≤ 64 →
      a.toNat + data.length ≤ s.params.flashSize → ∃ t, startMerge a data s = .next t ∧
      t.fpe.mode = .merge ∧ t.fpe.pb.toNat = a.toNat / 64 * 64 ∧ t.fpe.mrgA = a ∧ t.fpe.mrgLen.toNat = data.length ∧
      (∀ j, (h : j < 64) → t.fpe.mrgData[j] = if h' : j < data.length then data[j] else s.fpe.mrgData[j]) ∧
      t.fpe.state = .enter ∧ t.fpe.pbuf = s.fpe.pbuf ∧ t.seq = s.seq ∧ t.ee = s.ee ∧ t.entryT = s.entryT ∧ SameButSequencing s t)

/-- R167, R225, R190, R191: a Program below BOOTLOADER_START, run to its end, leaves the page equal to the payload, but for
an intercepted word 0 of page 0; no other byte changes; PROGRAM_OK follows, and the loop continues.
The number of ticks beside the busy times is the model's choice (log entry 22). -/
def Obligations.ProgramWritesThePage : Prop :=
  ∀ (f : Fields) (s : State) (d en ic dn : Inputs) (er wr rest : List Inputs), ParamsValid s.params → s.ArraysOk →
    s.flashOp = none → s.eepromOp = none → s.seq = .decode → s.rx.ok = true → decodeFrame s.frame = .cmdProgram f →
    (pageOperand f).toNat < s.params.blStart → s.inputs = [d, en, ic] ++ er ++ wr ++ [dn] ++ rest →
    CommandTicks er → CommandTicks wr → AllQuiet ([d, en, ic] ++ er ++ wr ++ [dn]) →
    ∃ t, run (er.length + wr.length + 4) s = .next t ∧
    t.seq = .clear ∧ t.ev = s.ev ++ [.programOk] ∧ t.gie = s.gie ∧ t.frame = s.frame ∧ t.flashOp = none ∧
    t.fpe.state = .idle ∧ t.ports.hoValid = s.ports.hoValid ∧ t.inputs = rest ∧
    (∀ a, t.eepromByte a = s.eepromByte a) ∧ SameFlashOutside (pageOperand f).toNat 64 s t ∧
    (if pageOperand f = 0 ∧ isRjmp (le16 f.payload[0] f.payload[1]) = true then
      t.entryT = rjmpTarget s.params (le16 f.payload[0] f.payload[1]) 0 ∧
      t.flashByte 0 = loByte (entryJumpWord s.params) ∧ t.flashByte 1 = hiByte (entryJumpWord s.params) ∧
      ∀ j, (h : j < 64) → 2 ≤ j → t.flashByte j = f.payload[j]
    else
      t.entryT = s.entryT ∧ ∀ j, (h : j < 64) → t.flashByte ((pageOperand f).toNat + j) = f.payload[j])

/-- R195, R196, R171, R199, R226: a Run, carried to its end, leaves ENTRY_P = ENTRY_T, changes no other byte of FLASH or the
EEPROM, and hands off to ENTRY_T, whatever its value (R201).
The number of ticks beside the busy times is the model's choice (log entry 22). -/
def Obligations.RunPersistsAndHandsOff : Prop :=
  ∀ (f : Fields) (s : State) (d st en as ic dn : Inputs) (er wr rest : List Inputs), ParamsValid s.params → s.ArraysOk →
    s.flashOp = none → s.eepromOp = none → s.seq = .decode → s.rx.ok = true → s.fpe.state = .idle →
    decodeFrame s.frame = .cmdRun f → s.inputs = [d, st, en, as, ic] ++ er ++ wr ++ [dn] ++ rest →
    CommandTicks er → CommandTicks wr → AllQuiet ([d, st, en, as, ic] ++ er ++ wr ++ [dn]) →
    ∃ t, run (er.length + wr.length + 6) s = .next t ∧
    t.seq = .halted ∧ t.ports.hoValid = true ∧ t.ports.hoTarget = s.entryT ∧ t.entryP = s.entryT ∧ t.entryT = s.entryT ∧
    t.ev = s.ev ∧ t.gie = s.gie ∧ t.flashOp = none ∧ t.inputs = rest ∧ (∀ a, t.eepromByte a = s.eepromByte a) ∧
    SameFlashOutside (s.params.blStart - 2) 2 s t

/-! ## The exits and the EEPROM sequence -/

/-- R193, R194, R199: EXIT_NP reads the persistent pointer into ENTRY_T and hands off to it; nothing checks it, and no array
changes.
What the read leaves on fl_rdaddr is left open here. -/
def Obligations.ExitWithoutPersistHandsOff : Prop :=
  ∀ s : State, ParamsValid s.params → s.now.event = .quiet → s.seq = .exitNp → s.flashOp = none →
    ∃ a, step s = .next
      { s.beginTick s.now with
        entryT := le16 (s.flashByte (s.params.blStart - 2)) (s.flashByte (s.params.blStart - 1))
        ports :=
          { (s.beginTick s.now).ports with
            flRdaddr := a
            hoValid := true
            hoTarget := le16 (s.flashByte (s.params.blStart - 2)) (s.flashByte (s.params.blStart - 1)) }
        seq := .halted }

/-- R231, R232, R34: one tick of the EEPROM sequence in each of its states. -/
def Obligations.EepromSequenceTicks : Prop :=
  ∀ s : State, ParamsValid s.params → s.now.event = .quiet → s.seq = .eeprom →
    (s.ee.state = .next → s.ee.i = s.ee.len → step s = .next { s.beginTick s.now with seq := .exitNp }) ∧
    (s.ee.state = .next → s.ee.i ≠ s.ee.len → step s = .next
      { s.beginTick s.now with gieSave := s.gie, gie := false, ee := { s.ee with state := .wait } }) ∧
    (s.ee.state = .wait → step s = .next
      { s.beginTick s.now with ee := { s.ee with state := if s.now.eeBusy then .wait else .issue } }) ∧
    (s.ee.state = .issue → ∃ t, step s = .next t ∧
      t.eepromOp = some { addr := BitVec.ofNat 16 ((s.ee.base.toNat + s.ee.i.toNat) % 65536), data := t.ports.eeData } ∧
      t.ports.eeReq = true ∧ t.ports.eeAddr = BitVec.ofNat 16 ((s.ee.base.toNat + s.ee.i.toNat) % 65536) ∧
      (∀ h : s.ee.i.toNat < 64, t.ports.eeData = s.frame[7 + s.ee.i.toNat]) ∧
      (64 ≤ s.ee.i.toNat → t.ports.eeData = s.now.drawByte) ∧
      t.gie = s.gieSave ∧ t.ee = { s.ee with i := s.ee.i + 1, state := .next } ∧ t.seq = .eeprom ∧ t.entryT = s.entryT ∧
      t.fpe = s.fpe ∧ t.ev = s.ev ∧ SameReceiver { s with tmr := s.tmr + 1 } t)

/-- R227, R231, R232, R67, R194, R200, R295: a WriteEEPROM, carried to its end and one tick further, has written its `length`
bytes in order, each at the clamp of (base + i) mod 65536, has changed no byte of FLASH, and has handed off to the old
ENTRY_P, not to ENTRY_T.
The number of ticks beside the busy times is the model's choice (log entry 22). -/
def Obligations.WriteEepromWritesAndHandsOff : Prop :=
  ∀ (f : Fields) (s : State) (d nl ex fin : Inputs) (blocks : List (List Inputs)) (rest : List Inputs),
    ParamsValid s.params → s.ArraysOk → s.flashOp = none → s.eepromOp = none → s.seq = .decode → s.rx.ok = true →
    decodeFrame s.frame = .cmdWriteEeprom f → blocks.length = f.length.toNat → (∀ b ∈ blocks, ByteTicks b) →
    s.inputs = d :: blocks.flatten ++ [nl, ex, fin] ++ rest → AllQuiet (d :: blocks.flatten ++ [nl, ex, fin]) →
    fin.eeBusy = false → ∃ t, run (blocks.flatten.length + 4) s = .next t ∧
    t.seq = .halted ∧ t.ports.hoValid = true ∧ t.ports.hoTarget = s.entryP ∧ t.entryT = s.entryP ∧ t.eepromOp = none ∧
    (∀ a, t.eepromByte a = afterWrites (sequenceWrites f blocks) a (s.eepromByte a)) ∧
    (∀ a, t.flashByte a = s.flashByte a) ∧ t.ev = s.ev ∧ t.gie = s.gie ∧ t.inputs = rest

/-! ## Reset -/

/-- R40, R41, R257, R280, R281: a reset wins at any tick in any state. SEQ is BOOT_START if and only if host word 0 is a
relative jump to the bootloader entry, else BYPASSED, so that ENTRY_JUMP_WORD at word 0 leads into the block (R198); with no
operation in progress both arrays are kept. -/
def Obligations.ResetWinsAtAnyTick : Prop :=
  ∀ s : State, ParamsValid s.params → s.now.event = .reset → ∃ t, step s = .next t ∧
    t.entryT = 0 ∧ t.fpe.state = .idle ∧ t.ev = [] ∧ t.ports.hoValid = false ∧ t.ports.flCmd = .none ∧
    t.ports.eeReq = false ∧ t.gie = s.now.gieEntry ∧ t.flashOp = none ∧ t.eepromOp = none ∧ TimePasses s t ∧
    (t.seq = .bootStart ∨ t.seq = .bypassed) ∧
    (t.seq = .bootStart ↔ isRjmp (le16 (t.flashByte 0) (t.flashByte 1)) = true ∧
      rjmpTarget s.params (le16 (t.flashByte 0) (t.flashByte 1)) 0 = BitVec.ofNat 16 (s.params.blEntry / 2)) ∧
    (le16 (t.flashByte 0) (t.flashByte 1) = entryJumpWord s.params → t.seq = .bootStart) ∧
    (s.flashOp = none → ∀ a, t.flashByte a = s.flashByte a) ∧ (s.eepromOp = none → ∀ a, t.eepromByte a = s.eepromByte a)

/-- R287: a reset in the middle of an operation leaves every byte outside the page, or the byte, under operation as it was. -/
def Obligations.ResetSparesSettledBytes : Prop :=
  ∀ s : State, ParamsValid s.params → s.ArraysOk → s.now.event = .reset → ∃ t, step s = .next t ∧
    (∀ op, s.flashOp = some op → SameFlashOutside op.pb.toNat 64 s t) ∧
    (∀ op, s.eepromOp = some op → ∀ a, a ≠ min op.addr.toNat 511 → t.eepromByte a = s.eepromByte a)

/-- R280 (D33): control that reaches BOOTLOADER_ENTRY by another route, from a CPU that runs something else, starts the
block as a reset does, with ENTRY_T = 0x0000, whatever word 0 holds. The two states it comes from are the model's reading
(log entry 17). -/
def Obligations.EntryByAnotherRouteIsAReset : Prop :=
  ∀ s : State, ParamsValid s.params → s.now.event = .entry → s.seq = .halted ∨ s.seq = .bypassed →
    step s = .next { s.takeReset s.now with seq := .bootStart } ∧ (s.takeReset s.now).entryT = 0x0000

/-- U9, U15 (log entries 18 and 19): the two things the model refuses at a step: parameters that break their constraints,
and an interrupt the CPU takes while the block runs with GIE = 1; while GIE is 0 the interrupt waits and the tick is a
quiet one. -/
def Obligations.RefusalsOfTheStep : Prop :=
  ∀ s : State,
    (¬ParamsValid s.params → step s = .refused .badParams) ∧
    (ParamsValid s.params → s.now.event = .interrupt → s.gie = true → s.seq.terminal = false →
      step s = .refused .interruptTaken) ∧
    (ParamsValid s.params → s.now.event = .interrupt → s.gie = false → step s = ruleTick s.now s)

/-- The state after reset: R40's values, and the model's own choice of parameters and array contents (log entries 1 and 3),
under which host word 0 is ENTRY_JUMP_WORD. -/
def Obligations.ResetStateValues : Prop :=
  State.reset.seq = .bootStart ∧ State.reset.entryT = 0x0000 ∧ State.reset.fpe.state = .idle ∧ State.reset.ev = [] ∧
    State.reset.ports.hoValid = false ∧ State.reset.ports.flCmd = .none ∧ State.reset.ports.eeReq = false ∧
    State.reset.flashOp = none ∧ State.reset.eepromOp = none ∧
    resetSeq State.reset.params State.reset.flash = .bootStart

/-! ## Invariants -/

/-- Every step keeps both arrays in their canonical form, inside their sizes, and every operation inside FLASH. -/
def Obligations.ArraysStayCanonical : Prop :=
  ∀ s t : State, s.ArraysOk → step s = .next t → t.ArraysOk

/-- R73: no step of the block, a reset included, changes a byte of the Bootloader Region, or points the flash engine at
it. -/
def Obligations.BootloaderRegionIsNeverWritten : Prop :=
  ∀ s t : State, s.ArraysOk → s.Protected → step s = .next t →
    t.Protected ∧ ∀ a, s.params.blStart ≤ a → t.flashByte a = s.flashByte a

/-- R34, R69, R160: every step keeps the engines' discipline: FPE runs for exactly one caller, the controller works exactly
while FPE waits, and interrupts stay masked during every flash and EEPROM operation. -/
def Obligations.EnginesStayDisciplined : Prop :=
  ∀ s t : State, s.EnginesOk → step s = .next t → t.EnginesOk

/-- R134, R141, R252: every step keeps the receiver's registers in their ranges, reception reports success always, and FATAL
is never reached.
That reception always succeeds, and so that no FATAL occurs, is the spec's decision D6 (92_eei_decisions.md), which the
model takes (log entry 25). -/
def Obligations.ReceiverStaysInRange : Prop :=
  ∀ s t : State, s.ReceiverOk → step s = .next t → t.ReceiverOk

/-- R30, R231, R283: every step keeps the poll counter within BOOT_THRESHOLD and the EEPROM index within its length. -/
def Obligations.CountersStayInRange : Prop :=
  ∀ s t : State, s.CountersOk → step s = .next t → t.CountersOk

/-- R35: every step keeps ho_valid = 1 exactly in HALTED. -/
def Obligations.HandoffPortMarksHalted : Prop :=
  ∀ s t : State, s.HandoffOk → step s = .next t → t.HandoffOk

/-- Under the invariants no step stops but for a refused interrupt (log entry 18): the block has no exception and
no trap (R250).
That FATAL does not occur is D6 (log entry 25), here in `ReceiverOk`. -/
def Obligations.OnlyAnInterruptStopsTheBlock : Prop :=
  ∀ s : State, ParamsValid s.params → s.Protected → s.ReceiverOk →
    (∃ t, step s = .next t) ∨ (s.now.event = .interrupt ∧ s.gie = true ∧ step s = .refused .interruptTaken)

/-- Every invariant holds right after reset, with the model's choice of parameters and array contents (log entries 1 and
3), and with D6 for FATAL (log entry 25). -/
def Obligations.InvariantsHoldAtReset : Prop :=
  ParamsValid State.reset.params ∧ State.reset.ArraysOk ∧ State.reset.Protected ∧ State.reset.EnginesOk ∧
    State.reset.ReceiverOk ∧ State.reset.CountersOk ∧ State.reset.HandoffOk
end

