-- ==== Sys2Proof/Laws/State.lean ====
section
/-! SUPPORT. One lemma per field per named update of the state, so that no proof unfolds an update. -/

namespace Sys2Proof.Machine

variable (s : State)

/-! ### `goto` -/

@[simp] theorem goto_params (v : Seq) : (s.goto v).params = s.params := rfl
@[simp] theorem goto_seq (v : Seq) : (s.goto v).seq = v := rfl
@[simp] theorem goto_rx (v : Seq) : (s.goto v).rx = s.rx := rfl
@[simp] theorem goto_tmr (v : Seq) : (s.goto v).tmr = s.tmr := rfl
@[simp] theorem goto_frame (v : Seq) : (s.goto v).frame = s.frame := rfl
@[simp] theorem goto_fpe (v : Seq) : (s.goto v).fpe = s.fpe := rfl
@[simp] theorem goto_gieSave (v : Seq) : (s.goto v).gieSave = s.gieSave := rfl
@[simp] theorem goto_entryT (v : Seq) : (s.goto v).entryT = s.entryT := rfl
@[simp] theorem goto_ee (v : Seq) : (s.goto v).ee = s.ee := rfl
@[simp] theorem goto_bsq (v : Seq) : (s.goto v).bsq = s.bsq := rfl
@[simp] theorem goto_ev (v : Seq) : (s.goto v).ev = s.ev := rfl
@[simp] theorem goto_ports (v : Seq) : (s.goto v).ports = s.ports := rfl
@[simp] theorem goto_gie (v : Seq) : (s.goto v).gie = s.gie := rfl
@[simp] theorem goto_flash (v : Seq) : (s.goto v).flash = s.flash := rfl
@[simp] theorem goto_eeprom (v : Seq) : (s.goto v).eeprom = s.eeprom := rfl
@[simp] theorem goto_flashOp (v : Seq) : (s.goto v).flashOp = s.flashOp := rfl
@[simp] theorem goto_eepromOp (v : Seq) : (s.goto v).eepromOp = s.eepromOp := rfl
@[simp] theorem goto_inputs (v : Seq) : (s.goto v).inputs = s.inputs := rfl
@[simp] theorem goto_tick (v : Seq) : (s.goto v).tick = s.tick := rfl

/-! ### `emit` -/

@[simp] theorem emit_params (E : StatusEvent) : (s.emit E).params = s.params := rfl
@[simp] theorem emit_seq (E : StatusEvent) : (s.emit E).seq = s.seq := rfl
@[simp] theorem emit_rx (E : StatusEvent) : (s.emit E).rx = s.rx := rfl
@[simp] theorem emit_tmr (E : StatusEvent) : (s.emit E).tmr = s.tmr := rfl
@[simp] theorem emit_frame (E : StatusEvent) : (s.emit E).frame = s.frame := rfl
@[simp] theorem emit_fpe (E : StatusEvent) : (s.emit E).fpe = s.fpe := rfl
@[simp] theorem emit_gieSave (E : StatusEvent) : (s.emit E).gieSave = s.gieSave := rfl
@[simp] theorem emit_entryT (E : StatusEvent) : (s.emit E).entryT = s.entryT := rfl
@[simp] theorem emit_ee (E : StatusEvent) : (s.emit E).ee = s.ee := rfl
@[simp] theorem emit_bsq (E : StatusEvent) : (s.emit E).bsq = s.bsq := rfl
@[simp] theorem emit_ev (E : StatusEvent) : (s.emit E).ev = s.ev ++ [E] := rfl
@[simp] theorem emit_ports (E : StatusEvent) : (s.emit E).ports = s.ports := rfl
@[simp] theorem emit_gie (E : StatusEvent) : (s.emit E).gie = s.gie := rfl
@[simp] theorem emit_flash (E : StatusEvent) : (s.emit E).flash = s.flash := rfl
@[simp] theorem emit_eeprom (E : StatusEvent) : (s.emit E).eeprom = s.eeprom := rfl
@[simp] theorem emit_flashOp (E : StatusEvent) : (s.emit E).flashOp = s.flashOp := rfl
@[simp] theorem emit_eepromOp (E : StatusEvent) : (s.emit E).eepromOp = s.eepromOp := rfl
@[simp] theorem emit_inputs (E : StatusEvent) : (s.emit E).inputs = s.inputs := rfl
@[simp] theorem emit_tick (E : StatusEvent) : (s.emit E).tick = s.tick := rfl

/-! ### `gotoReceive` -/

@[simp] theorem gotoReceive_params : s.gotoReceive.params = s.params := rfl
@[simp] theorem gotoReceive_seq : s.gotoReceive.seq = .receive := rfl
@[simp] theorem gotoReceive_rx : s.gotoReceive.rx = { s.rx with entry := true } := rfl
@[simp] theorem gotoReceive_tmr : s.gotoReceive.tmr = s.tmr := rfl
@[simp] theorem gotoReceive_frame : s.gotoReceive.frame = s.frame := rfl
@[simp] theorem gotoReceive_fpe : s.gotoReceive.fpe = s.fpe := rfl
@[simp] theorem gotoReceive_gieSave : s.gotoReceive.gieSave = s.gieSave := rfl
@[simp] theorem gotoReceive_entryT : s.gotoReceive.entryT = s.entryT := rfl
@[simp] theorem gotoReceive_ee : s.gotoReceive.ee = s.ee := rfl
@[simp] theorem gotoReceive_bsq : s.gotoReceive.bsq = s.bsq := rfl
@[simp] theorem gotoReceive_ev : s.gotoReceive.ev = s.ev := rfl
@[simp] theorem gotoReceive_ports : s.gotoReceive.ports = s.ports := rfl
@[simp] theorem gotoReceive_gie : s.gotoReceive.gie = s.gie := rfl
@[simp] theorem gotoReceive_flash : s.gotoReceive.flash = s.flash := rfl
@[simp] theorem gotoReceive_eeprom : s.gotoReceive.eeprom = s.eeprom := rfl
@[simp] theorem gotoReceive_flashOp : s.gotoReceive.flashOp = s.flashOp := rfl
@[simp] theorem gotoReceive_eepromOp : s.gotoReceive.eepromOp = s.eepromOp := rfl
@[simp] theorem gotoReceive_inputs : s.gotoReceive.inputs = s.inputs := rfl
@[simp] theorem gotoReceive_tick : s.gotoReceive.tick = s.tick := rfl

/-! ### `raiseFatal` -/

@[simp] theorem raiseFatal_params : s.raiseFatal.params = s.params := rfl
@[simp] theorem raiseFatal_seq : s.raiseFatal.seq = .fatal := rfl
@[simp] theorem raiseFatal_rx : s.raiseFatal.rx = s.rx := rfl
@[simp] theorem raiseFatal_tmr : s.raiseFatal.tmr = s.tmr := rfl
@[simp] theorem raiseFatal_frame : s.raiseFatal.frame = s.frame := rfl
@[simp] theorem raiseFatal_fpe : s.raiseFatal.fpe = s.fpe := rfl
@[simp] theorem raiseFatal_gieSave : s.raiseFatal.gieSave = s.gieSave := rfl
@[simp] theorem raiseFatal_entryT : s.raiseFatal.entryT = s.entryT := rfl
@[simp] theorem raiseFatal_ee : s.raiseFatal.ee = s.ee := rfl
@[simp] theorem raiseFatal_bsq : s.raiseFatal.bsq = s.bsq := rfl
@[simp] theorem raiseFatal_ev : s.raiseFatal.ev = s.ev ++ [.fatalBlink] := rfl
@[simp] theorem raiseFatal_ports : s.raiseFatal.ports = s.ports := rfl
@[simp] theorem raiseFatal_gie : s.raiseFatal.gie = s.gie := rfl
@[simp] theorem raiseFatal_flash : s.raiseFatal.flash = s.flash := rfl
@[simp] theorem raiseFatal_eeprom : s.raiseFatal.eeprom = s.eeprom := rfl
@[simp] theorem raiseFatal_flashOp : s.raiseFatal.flashOp = s.flashOp := rfl
@[simp] theorem raiseFatal_eepromOp : s.raiseFatal.eepromOp = s.eepromOp := rfl
@[simp] theorem raiseFatal_inputs : s.raiseFatal.inputs = s.inputs := rfl
@[simp] theorem raiseFatal_tick : s.raiseFatal.tick = s.tick := rfl

/-! ### `handoff` -/

@[simp] theorem handoff_params (t : Word) : (s.handoff t).params = s.params := rfl
@[simp] theorem handoff_seq (t : Word) : (s.handoff t).seq = .halted := rfl
@[simp] theorem handoff_rx (t : Word) : (s.handoff t).rx = s.rx := rfl
@[simp] theorem handoff_tmr (t : Word) : (s.handoff t).tmr = s.tmr := rfl
@[simp] theorem handoff_frame (t : Word) : (s.handoff t).frame = s.frame := rfl
@[simp] theorem handoff_fpe (t : Word) : (s.handoff t).fpe = s.fpe := rfl
@[simp] theorem handoff_gieSave (t : Word) : (s.handoff t).gieSave = s.gieSave := rfl
@[simp] theorem handoff_entryT (t : Word) : (s.handoff t).entryT = s.entryT := rfl
@[simp] theorem handoff_ee (t : Word) : (s.handoff t).ee = s.ee := rfl
@[simp] theorem handoff_bsq (t : Word) : (s.handoff t).bsq = s.bsq := rfl
@[simp] theorem handoff_ev (t : Word) : (s.handoff t).ev = s.ev := rfl
@[simp] theorem handoff_ports (t : Word) : (s.handoff t).ports = { s.ports with hoValid := true, hoTarget := t } := rfl
@[simp] theorem handoff_gie (t : Word) : (s.handoff t).gie = s.gie := rfl
@[simp] theorem handoff_flash (t : Word) : (s.handoff t).flash = s.flash := rfl
@[simp] theorem handoff_eeprom (t : Word) : (s.handoff t).eeprom = s.eeprom := rfl
@[simp] theorem handoff_flashOp (t : Word) : (s.handoff t).flashOp = s.flashOp := rfl
@[simp] theorem handoff_eepromOp (t : Word) : (s.handoff t).eepromOp = s.eepromOp := rfl
@[simp] theorem handoff_inputs (t : Word) : (s.handoff t).inputs = s.inputs := rfl
@[simp] theorem handoff_tick (t : Word) : (s.handoff t).tick = s.tick := rfl

/-! ### `maskGie` -/

@[simp] theorem maskGie_params : s.maskGie.params = s.params := rfl
@[simp] theorem maskGie_seq : s.maskGie.seq = s.seq := rfl
@[simp] theorem maskGie_rx : s.maskGie.rx = s.rx := rfl
@[simp] theorem maskGie_tmr : s.maskGie.tmr = s.tmr := rfl
@[simp] theorem maskGie_frame : s.maskGie.frame = s.frame := rfl
@[simp] theorem maskGie_fpe : s.maskGie.fpe = s.fpe := rfl
@[simp] theorem maskGie_gieSave : s.maskGie.gieSave = s.gie := rfl
@[simp] theorem maskGie_entryT : s.maskGie.entryT = s.entryT := rfl
@[simp] theorem maskGie_ee : s.maskGie.ee = s.ee := rfl
@[simp] theorem maskGie_bsq : s.maskGie.bsq = s.bsq := rfl
@[simp] theorem maskGie_ev : s.maskGie.ev = s.ev := rfl
@[simp] theorem maskGie_ports : s.maskGie.ports = s.ports := rfl
@[simp] theorem maskGie_gie : s.maskGie.gie = false := rfl
@[simp] theorem maskGie_flash : s.maskGie.flash = s.flash := rfl
@[simp] theorem maskGie_eeprom : s.maskGie.eeprom = s.eeprom := rfl
@[simp] theorem maskGie_flashOp : s.maskGie.flashOp = s.flashOp := rfl
@[simp] theorem maskGie_eepromOp : s.maskGie.eepromOp = s.eepromOp := rfl
@[simp] theorem maskGie_inputs : s.maskGie.inputs = s.inputs := rfl
@[simp] theorem maskGie_tick : s.maskGie.tick = s.tick := rfl

/-! ### `restoreGie` -/

@[simp] theorem restoreGie_params : s.restoreGie.params = s.params := rfl
@[simp] theorem restoreGie_seq : s.restoreGie.seq = s.seq := rfl
@[simp] theorem restoreGie_rx : s.restoreGie.rx = s.rx := rfl
@[simp] theorem restoreGie_tmr : s.restoreGie.tmr = s.tmr := rfl
@[simp] theorem restoreGie_frame : s.restoreGie.frame = s.frame := rfl
@[simp] theorem restoreGie_fpe : s.restoreGie.fpe = s.fpe := rfl
@[simp] theorem restoreGie_gieSave : s.restoreGie.gieSave = s.gieSave := rfl
@[simp] theorem restoreGie_entryT : s.restoreGie.entryT = s.entryT := rfl
@[simp] theorem restoreGie_ee : s.restoreGie.ee = s.ee := rfl
@[simp] theorem restoreGie_bsq : s.restoreGie.bsq = s.bsq := rfl
@[simp] theorem restoreGie_ev : s.restoreGie.ev = s.ev := rfl
@[simp] theorem restoreGie_ports : s.restoreGie.ports = s.ports := rfl
@[simp] theorem restoreGie_gie : s.restoreGie.gie = s.gieSave := rfl
@[simp] theorem restoreGie_flash : s.restoreGie.flash = s.flash := rfl
@[simp] theorem restoreGie_eeprom : s.restoreGie.eeprom = s.eeprom := rfl
@[simp] theorem restoreGie_flashOp : s.restoreGie.flashOp = s.flashOp := rfl
@[simp] theorem restoreGie_eepromOp : s.restoreGie.eepromOp = s.eepromOp := rfl
@[simp] theorem restoreGie_inputs : s.restoreGie.inputs = s.inputs := rfl
@[simp] theorem restoreGie_tick : s.restoreGie.tick = s.tick := rfl

/-! ### `receptionOk` -/

@[simp] theorem receptionOk_params : s.receptionOk.params = s.params := rfl
@[simp] theorem receptionOk_seq : s.receptionOk.seq = s.seq := rfl
@[simp] theorem receptionOk_rx : s.receptionOk.rx = { s.rx with ok := true } := rfl
@[simp] theorem receptionOk_tmr : s.receptionOk.tmr = s.tmr := rfl
@[simp] theorem receptionOk_frame : s.receptionOk.frame = s.frame := rfl
@[simp] theorem receptionOk_fpe : s.receptionOk.fpe = s.fpe := rfl
@[simp] theorem receptionOk_gieSave : s.receptionOk.gieSave = s.gieSave := rfl
@[simp] theorem receptionOk_entryT : s.receptionOk.entryT = s.entryT := rfl
@[simp] theorem receptionOk_ee : s.receptionOk.ee = s.ee := rfl
@[simp] theorem receptionOk_bsq : s.receptionOk.bsq = s.bsq := rfl
@[simp] theorem receptionOk_ev : s.receptionOk.ev = s.ev := rfl
@[simp] theorem receptionOk_ports : s.receptionOk.ports = s.ports := rfl
@[simp] theorem receptionOk_gie : s.receptionOk.gie = s.gie := rfl
@[simp] theorem receptionOk_flash : s.receptionOk.flash = s.flash := rfl
@[simp] theorem receptionOk_eeprom : s.receptionOk.eeprom = s.eeprom := rfl
@[simp] theorem receptionOk_flashOp : s.receptionOk.flashOp = s.flashOp := rfl
@[simp] theorem receptionOk_eepromOp : s.receptionOk.eepromOp = s.eepromOp := rfl
@[simp] theorem receptionOk_inputs : s.receptionOk.inputs = s.inputs := rfl
@[simp] theorem receptionOk_tick : s.receptionOk.tick = s.tick := rfl

/-! ### `fpeGoto` -/

@[simp] theorem fpeGoto_params (v : FpeState) : (s.fpeGoto v).params = s.params := rfl
@[simp] theorem fpeGoto_seq (v : FpeState) : (s.fpeGoto v).seq = s.seq := rfl
@[simp] theorem fpeGoto_rx (v : FpeState) : (s.fpeGoto v).rx = s.rx := rfl
@[simp] theorem fpeGoto_tmr (v : FpeState) : (s.fpeGoto v).tmr = s.tmr := rfl
@[simp] theorem fpeGoto_frame (v : FpeState) : (s.fpeGoto v).frame = s.frame := rfl
@[simp] theorem fpeGoto_fpe (v : FpeState) : (s.fpeGoto v).fpe = { s.fpe with state := v } := rfl
@[simp] theorem fpeGoto_gieSave (v : FpeState) : (s.fpeGoto v).gieSave = s.gieSave := rfl
@[simp] theorem fpeGoto_entryT (v : FpeState) : (s.fpeGoto v).entryT = s.entryT := rfl
@[simp] theorem fpeGoto_ee (v : FpeState) : (s.fpeGoto v).ee = s.ee := rfl
@[simp] theorem fpeGoto_bsq (v : FpeState) : (s.fpeGoto v).bsq = s.bsq := rfl
@[simp] theorem fpeGoto_ev (v : FpeState) : (s.fpeGoto v).ev = s.ev := rfl
@[simp] theorem fpeGoto_ports (v : FpeState) : (s.fpeGoto v).ports = s.ports := rfl
@[simp] theorem fpeGoto_gie (v : FpeState) : (s.fpeGoto v).gie = s.gie := rfl
@[simp] theorem fpeGoto_flash (v : FpeState) : (s.fpeGoto v).flash = s.flash := rfl
@[simp] theorem fpeGoto_eeprom (v : FpeState) : (s.fpeGoto v).eeprom = s.eeprom := rfl
@[simp] theorem fpeGoto_flashOp (v : FpeState) : (s.fpeGoto v).flashOp = s.flashOp := rfl
@[simp] theorem fpeGoto_eepromOp (v : FpeState) : (s.fpeGoto v).eepromOp = s.eepromOp := rfl
@[simp] theorem fpeGoto_inputs (v : FpeState) : (s.fpeGoto v).inputs = s.inputs := rfl
@[simp] theorem fpeGoto_tick (v : FpeState) : (s.fpeGoto v).tick = s.tick := rfl

/-! ### `driveRdaddr` -/

@[simp] theorem driveRdaddr_params (a : Word) : (s.driveRdaddr a).params = s.params := rfl
@[simp] theorem driveRdaddr_seq (a : Word) : (s.driveRdaddr a).seq = s.seq := rfl
@[simp] theorem driveRdaddr_rx (a : Word) : (s.driveRdaddr a).rx = s.rx := rfl
@[simp] theorem driveRdaddr_tmr (a : Word) : (s.driveRdaddr a).tmr = s.tmr := rfl
@[simp] theorem driveRdaddr_frame (a : Word) : (s.driveRdaddr a).frame = s.frame := rfl
@[simp] theorem driveRdaddr_fpe (a : Word) : (s.driveRdaddr a).fpe = s.fpe := rfl
@[simp] theorem driveRdaddr_gieSave (a : Word) : (s.driveRdaddr a).gieSave = s.gieSave := rfl
@[simp] theorem driveRdaddr_entryT (a : Word) : (s.driveRdaddr a).entryT = s.entryT := rfl
@[simp] theorem driveRdaddr_ee (a : Word) : (s.driveRdaddr a).ee = s.ee := rfl
@[simp] theorem driveRdaddr_bsq (a : Word) : (s.driveRdaddr a).bsq = s.bsq := rfl
@[simp] theorem driveRdaddr_ev (a : Word) : (s.driveRdaddr a).ev = s.ev := rfl
@[simp] theorem driveRdaddr_ports (a : Word) : (s.driveRdaddr a).ports = { s.ports with flRdaddr := a } := rfl
@[simp] theorem driveRdaddr_gie (a : Word) : (s.driveRdaddr a).gie = s.gie := rfl
@[simp] theorem driveRdaddr_flash (a : Word) : (s.driveRdaddr a).flash = s.flash := rfl
@[simp] theorem driveRdaddr_eeprom (a : Word) : (s.driveRdaddr a).eeprom = s.eeprom := rfl
@[simp] theorem driveRdaddr_flashOp (a : Word) : (s.driveRdaddr a).flashOp = s.flashOp := rfl
@[simp] theorem driveRdaddr_eepromOp (a : Word) : (s.driveRdaddr a).eepromOp = s.eepromOp := rfl
@[simp] theorem driveRdaddr_inputs (a : Word) : (s.driveRdaddr a).inputs = s.inputs := rfl
@[simp] theorem driveRdaddr_tick (a : Word) : (s.driveRdaddr a).tick = s.tick := rfl

/-! ### `eepromWrite` -/

@[simp] theorem eepromWrite_params (a : Word) (v : Byte) : (s.eepromWrite a v).params = s.params := rfl
@[simp] theorem eepromWrite_seq (a : Word) (v : Byte) : (s.eepromWrite a v).seq = s.seq := rfl
@[simp] theorem eepromWrite_rx (a : Word) (v : Byte) : (s.eepromWrite a v).rx = s.rx := rfl
@[simp] theorem eepromWrite_tmr (a : Word) (v : Byte) : (s.eepromWrite a v).tmr = s.tmr := rfl
@[simp] theorem eepromWrite_frame (a : Word) (v : Byte) : (s.eepromWrite a v).frame = s.frame := rfl
@[simp] theorem eepromWrite_fpe (a : Word) (v : Byte) : (s.eepromWrite a v).fpe = s.fpe := rfl
@[simp] theorem eepromWrite_gieSave (a : Word) (v : Byte) : (s.eepromWrite a v).gieSave = s.gieSave := rfl
@[simp] theorem eepromWrite_entryT (a : Word) (v : Byte) : (s.eepromWrite a v).entryT = s.entryT := rfl
@[simp] theorem eepromWrite_ee (a : Word) (v : Byte) : (s.eepromWrite a v).ee = s.ee := rfl
@[simp] theorem eepromWrite_bsq (a : Word) (v : Byte) : (s.eepromWrite a v).bsq = s.bsq := rfl
@[simp] theorem eepromWrite_ev (a : Word) (v : Byte) : (s.eepromWrite a v).ev = s.ev := rfl
@[simp] theorem eepromWrite_ports (a : Word) (v : Byte) : (s.eepromWrite a v).ports = { s.ports with eeReq := true, eeAddr := a, eeData := v } := rfl
@[simp] theorem eepromWrite_gie (a : Word) (v : Byte) : (s.eepromWrite a v).gie = s.gie := rfl
@[simp] theorem eepromWrite_flash (a : Word) (v : Byte) : (s.eepromWrite a v).flash = s.flash := rfl
@[simp] theorem eepromWrite_eeprom (a : Word) (v : Byte) : (s.eepromWrite a v).eeprom = s.eeprom := rfl
@[simp] theorem eepromWrite_flashOp (a : Word) (v : Byte) : (s.eepromWrite a v).flashOp = s.flashOp := rfl
@[simp] theorem eepromWrite_eepromOp (a : Word) (v : Byte) : (s.eepromWrite a v).eepromOp = some { addr := a, data := v } := rfl
@[simp] theorem eepromWrite_inputs (a : Word) (v : Byte) : (s.eepromWrite a v).inputs = s.inputs := rfl
@[simp] theorem eepromWrite_tick (a : Word) (v : Byte) : (s.eepromWrite a v).tick = s.tick := rfl

/-! ### `flashController` -/

@[simp] theorem flashController_params (e : Inputs) : (s.flashController e).params = s.params := by unfold State.flashController; split <;> [split <;> rfl; rfl]
@[simp] theorem flashController_seq (e : Inputs) : (s.flashController e).seq = s.seq := by unfold State.flashController; split <;> [split <;> rfl; rfl]
@[simp] theorem flashController_rx (e : Inputs) : (s.flashController e).rx = s.rx := by unfold State.flashController; split <;> [split <;> rfl; rfl]
@[simp] theorem flashController_tmr (e : Inputs) : (s.flashController e).tmr = s.tmr := by unfold State.flashController; split <;> [split <;> rfl; rfl]
@[simp] theorem flashController_frame (e : Inputs) : (s.flashController e).frame = s.frame := by unfold State.flashController; split <;> [split <;> rfl; rfl]
@[simp] theorem flashController_fpe (e : Inputs) : (s.flashController e).fpe = s.fpe := by unfold State.flashController; split <;> [split <;> rfl; rfl]
@[simp] theorem flashController_gieSave (e : Inputs) : (s.flashController e).gieSave = s.gieSave := by unfold State.flashController; split <;> [split <;> rfl; rfl]
@[simp] theorem flashController_entryT (e : Inputs) : (s.flashController e).entryT = s.entryT := by unfold State.flashController; split <;> [split <;> rfl; rfl]
@[simp] theorem flashController_ee (e : Inputs) : (s.flashController e).ee = s.ee := by unfold State.flashController; split <;> [split <;> rfl; rfl]
@[simp] theorem flashController_bsq (e : Inputs) : (s.flashController e).bsq = s.bsq := by unfold State.flashController; split <;> [split <;> rfl; rfl]
@[simp] theorem flashController_ev (e : Inputs) : (s.flashController e).ev = s.ev := by unfold State.flashController; split <;> [split <;> rfl; rfl]
@[simp] theorem flashController_ports (e : Inputs) : (s.flashController e).ports = s.ports := by unfold State.flashController; split <;> [split <;> rfl; rfl]
@[simp] theorem flashController_gie (e : Inputs) : (s.flashController e).gie = s.gie := by unfold State.flashController; split <;> [split <;> rfl; rfl]
@[simp] theorem flashController_eeprom (e : Inputs) : (s.flashController e).eeprom = s.eeprom := by unfold State.flashController; split <;> [split <;> rfl; rfl]
@[simp] theorem flashController_eepromOp (e : Inputs) : (s.flashController e).eepromOp = s.eepromOp := by unfold State.flashController; split <;> [split <;> rfl; rfl]
@[simp] theorem flashController_inputs (e : Inputs) : (s.flashController e).inputs = s.inputs := by unfold State.flashController; split <;> [split <;> rfl; rfl]
@[simp] theorem flashController_tick (e : Inputs) : (s.flashController e).tick = s.tick := by unfold State.flashController; split <;> [split <;> rfl; rfl]

/-! ### `eepromCollaborator` -/

@[simp] theorem eepromCollaborator_params (e : Inputs) : (s.eepromCollaborator e).params = s.params := by unfold State.eepromCollaborator; split <;> [split <;> rfl; rfl]
@[simp] theorem eepromCollaborator_seq (e : Inputs) : (s.eepromCollaborator e).seq = s.seq := by unfold State.eepromCollaborator; split <;> [split <;> rfl; rfl]
@[simp] theorem eepromCollaborator_rx (e : Inputs) : (s.eepromCollaborator e).rx = s.rx := by unfold State.eepromCollaborator; split <;> [split <;> rfl; rfl]
@[simp] theorem eepromCollaborator_tmr (e : Inputs) : (s.eepromCollaborator e).tmr = s.tmr := by unfold State.eepromCollaborator; split <;> [split <;> rfl; rfl]
@[simp] theorem eepromCollaborator_frame (e : Inputs) : (s.eepromCollaborator e).frame = s.frame := by unfold State.eepromCollaborator; split <;> [split <;> rfl; rfl]
@[simp] theorem eepromCollaborator_fpe (e : Inputs) : (s.eepromCollaborator e).fpe = s.fpe := by unfold State.eepromCollaborator; split <;> [split <;> rfl; rfl]
@[simp] theorem eepromCollaborator_gieSave (e : Inputs) : (s.eepromCollaborator e).gieSave = s.gieSave := by unfold State.eepromCollaborator; split <;> [split <;> rfl; rfl]
@[simp] theorem eepromCollaborator_entryT (e : Inputs) : (s.eepromCollaborator e).entryT = s.entryT := by unfold State.eepromCollaborator; split <;> [split <;> rfl; rfl]
@[simp] theorem eepromCollaborator_ee (e : Inputs) : (s.eepromCollaborator e).ee = s.ee := by unfold State.eepromCollaborator; split <;> [split <;> rfl; rfl]
@[simp] theorem eepromCollaborator_bsq (e : Inputs) : (s.eepromCollaborator e).bsq = s.bsq := by unfold State.eepromCollaborator; split <;> [split <;> rfl; rfl]
@[simp] theorem eepromCollaborator_ev (e : Inputs) : (s.eepromCollaborator e).ev = s.ev := by unfold State.eepromCollaborator; split <;> [split <;> rfl; rfl]
@[simp] theorem eepromCollaborator_ports (e : Inputs) : (s.eepromCollaborator e).ports = s.ports := by unfold State.eepromCollaborator; split <;> [split <;> rfl; rfl]
@[simp] theorem eepromCollaborator_gie (e : Inputs) : (s.eepromCollaborator e).gie = s.gie := by unfold State.eepromCollaborator; split <;> [split <;> rfl; rfl]
@[simp] theorem eepromCollaborator_flash (e : Inputs) : (s.eepromCollaborator e).flash = s.flash := by unfold State.eepromCollaborator; split <;> [split <;> rfl; rfl]
@[simp] theorem eepromCollaborator_flashOp (e : Inputs) : (s.eepromCollaborator e).flashOp = s.flashOp := by unfold State.eepromCollaborator; split <;> [split <;> rfl; rfl]
@[simp] theorem eepromCollaborator_inputs (e : Inputs) : (s.eepromCollaborator e).inputs = s.inputs := by unfold State.eepromCollaborator; split <;> [split <;> rfl; rfl]
@[simp] theorem eepromCollaborator_tick (e : Inputs) : (s.eepromCollaborator e).tick = s.tick := by unfold State.eepromCollaborator; split <;> [split <;> rfl; rfl]

/-- The two controllers do not touch each other's array: the collaborator's part is the same after the flash controller's. -/
theorem eepromCollaborator_eeprom_flashController (e : Inputs) :
    ((s.flashController e).eepromCollaborator e).eeprom = (s.eepromCollaborator e).eeprom := by
  simp only [State.eepromCollaborator, flashController_eepromOp, flashController_eeprom]
  cases s.eepromOp with
  | none => simp
  | some op => by_cases h : e.eeBusy <;> simp [h]

/-- The same of the write in progress. -/
theorem eepromCollaborator_eepromOp_flashController (e : Inputs) :
    ((s.flashController e).eepromCollaborator e).eepromOp = (s.eepromCollaborator e).eepromOp := by
  simp only [State.eepromCollaborator, flashController_eepromOp]
  cases h0 : s.eepromOp with
  | none => simp [h0]
  | some op => by_cases h : e.eeBusy <;> simp [h, h0]

/-! ### `environmentTick` -/

@[simp] theorem environmentTick_params (e : Inputs) : (s.environmentTick e).params = s.params := by simp [State.environmentTick]
@[simp] theorem environmentTick_seq (e : Inputs) : (s.environmentTick e).seq = s.seq := by simp [State.environmentTick]
@[simp] theorem environmentTick_rx (e : Inputs) : (s.environmentTick e).rx = s.rx := by simp [State.environmentTick]
@[simp] theorem environmentTick_tmr (e : Inputs) : (s.environmentTick e).tmr = s.tmr := by simp [State.environmentTick]
@[simp] theorem environmentTick_frame (e : Inputs) : (s.environmentTick e).frame = s.frame := by simp [State.environmentTick]
@[simp] theorem environmentTick_fpe (e : Inputs) : (s.environmentTick e).fpe = s.fpe := by simp [State.environmentTick]
@[simp] theorem environmentTick_gieSave (e : Inputs) : (s.environmentTick e).gieSave = s.gieSave := by simp [State.environmentTick]
@[simp] theorem environmentTick_entryT (e : Inputs) : (s.environmentTick e).entryT = s.entryT := by simp [State.environmentTick]
@[simp] theorem environmentTick_ee (e : Inputs) : (s.environmentTick e).ee = s.ee := by simp [State.environmentTick]
@[simp] theorem environmentTick_bsq (e : Inputs) : (s.environmentTick e).bsq = s.bsq := by simp [State.environmentTick]
@[simp] theorem environmentTick_ev (e : Inputs) : (s.environmentTick e).ev = s.ev := by simp [State.environmentTick]
@[simp] theorem environmentTick_ports (e : Inputs) : (s.environmentTick e).ports = s.ports := by simp [State.environmentTick]
@[simp] theorem environmentTick_gie (e : Inputs) : (s.environmentTick e).gie = s.gie := by simp [State.environmentTick]
@[simp] theorem environmentTick_flash (e : Inputs) : (s.environmentTick e).flash = (s.flashController e).flash := by simp [State.environmentTick]
@[simp] theorem environmentTick_eeprom (e : Inputs) : (s.environmentTick e).eeprom = (s.eepromCollaborator e).eeprom := eepromCollaborator_eeprom_flashController s e
@[simp] theorem environmentTick_flashOp (e : Inputs) : (s.environmentTick e).flashOp = (s.flashController e).flashOp := by simp [State.environmentTick]
@[simp] theorem environmentTick_eepromOp (e : Inputs) : (s.environmentTick e).eepromOp = (s.eepromCollaborator e).eepromOp := eepromCollaborator_eepromOp_flashController s e
@[simp] theorem environmentTick_inputs (e : Inputs) : (s.environmentTick e).inputs = s.inputs.drop 1 := rfl
@[simp] theorem environmentTick_tick (e : Inputs) : (s.environmentTick e).tick = s.tick + 1 := rfl

/-! ### `beginTick` -/

@[simp] theorem beginTick_params (e : Inputs) : (s.beginTick e).params = s.params := by simp [State.beginTick]
@[simp] theorem beginTick_seq (e : Inputs) : (s.beginTick e).seq = s.seq := by simp [State.beginTick]
@[simp] theorem beginTick_rx (e : Inputs) : (s.beginTick e).rx = s.rx := by simp [State.beginTick]
@[simp] theorem beginTick_tmr (e : Inputs) : (s.beginTick e).tmr = s.tmr + 1 := by simp [State.beginTick]
@[simp] theorem beginTick_frame (e : Inputs) : (s.beginTick e).frame = s.frame := by simp [State.beginTick]
@[simp] theorem beginTick_fpe (e : Inputs) : (s.beginTick e).fpe = s.fpe := by simp [State.beginTick]
@[simp] theorem beginTick_gieSave (e : Inputs) : (s.beginTick e).gieSave = s.gieSave := by simp [State.beginTick]
@[simp] theorem beginTick_entryT (e : Inputs) : (s.beginTick e).entryT = s.entryT := by simp [State.beginTick]
@[simp] theorem beginTick_ee (e : Inputs) : (s.beginTick e).ee = s.ee := by simp [State.beginTick]
@[simp] theorem beginTick_bsq (e : Inputs) : (s.beginTick e).bsq = s.bsq := by simp [State.beginTick]
@[simp] theorem beginTick_ev (e : Inputs) : (s.beginTick e).ev = s.ev := by simp [State.beginTick]
@[simp] theorem beginTick_ports (e : Inputs) : (s.beginTick e).ports = { s.ports with flCmd := .none, eeReq := false } := by simp [State.beginTick]
@[simp] theorem beginTick_gie (e : Inputs) : (s.beginTick e).gie = s.gie := by simp [State.beginTick]
@[simp] theorem beginTick_flash (e : Inputs) : (s.beginTick e).flash = (s.flashController e).flash := by simp [State.beginTick]
@[simp] theorem beginTick_eeprom (e : Inputs) : (s.beginTick e).eeprom = (s.eepromCollaborator e).eeprom := by simp [State.beginTick]
@[simp] theorem beginTick_flashOp (e : Inputs) : (s.beginTick e).flashOp = (s.flashController e).flashOp := by simp [State.beginTick]
@[simp] theorem beginTick_eepromOp (e : Inputs) : (s.beginTick e).eepromOp = (s.eepromCollaborator e).eepromOp := by simp [State.beginTick]
@[simp] theorem beginTick_inputs (e : Inputs) : (s.beginTick e).inputs = s.inputs.drop 1 := by simp [State.beginTick]
@[simp] theorem beginTick_tick (e : Inputs) : (s.beginTick e).tick = s.tick + 1 := by simp [State.beginTick]

end Sys2Proof.Machine
end

