-- ==== Sys2Proof/Laws/Memory.lean ====
section
/-! SUPPORT. The laws of the two arrays: read after write, the canonical form, and what the named flash and EEPROM
operations can do. -/

namespace Sys2Proof.Machine

variable {blank : Nat → Byte}

@[simp] theorem Memory.read_nil (a : Nat) : Memory.read blank [] a = blank a := rfl

theorem Memory.read_cons (c : Host.Cell) (m : Memory) (a : Nat) :
    Memory.read blank (c :: m) a = if a = c.1 then c.2 else Memory.read blank m a := rfl

theorem Memory.wfFrom_cons (lo : Nat) (c : Host.Cell) (m : Memory) :
    Memory.wfFrom blank lo (c :: m) = true ↔
      lo ≤ c.1 ∧ c.2 ≠ blank c.1 ∧ Memory.wfFrom blank (c.1 + 1) m = true := by
  obtain ⟨a, v⟩ := c
  simp [Memory.wfFrom, and_assoc]

/-- A lower bound on the listed addresses may be lowered. -/
theorem Memory.wfFrom_mono {lo lo' : Nat} (h : lo' ≤ lo) {m : Memory} (hm : Memory.wfFrom blank lo m = true) :
    Memory.wfFrom blank lo' m = true := by
  cases m with
  | nil => rfl
  | cons c m =>
    rw [Memory.wfFrom_cons] at hm ⊢
    exact ⟨by omega, hm.2⟩

/-- Below every listed address the array reads as unlisted. -/
theorem Memory.read_below {m : Memory} : ∀ {lo a : Nat}, Memory.wfFrom blank lo m = true → a < lo →
    Memory.read blank m a = blank a := by
  induction m with
  | nil => intros; rfl
  | cons c m ih =>
    intro lo a h ha
    rw [Memory.wfFrom_cons] at h
    rw [Memory.read_cons, if_neg (by omega)]
    exact ih h.2.2 (by omega)

theorem Memory.wfFrom_cell {lo a : Nat} (hlo : lo ≤ a) {m : Memory} (hm : Memory.wfFrom blank (a + 1) m = true)
    (v : Byte) : Memory.wfFrom blank lo (Memory.cell blank a v m) = true := by
  unfold Memory.cell
  split
  · exact Memory.wfFrom_mono (by omega) hm
  · rename_i h
    rw [Memory.wfFrom_cons]
    exact ⟨hlo, h, hm⟩

/-- A write keeps the canonical form. -/
theorem Memory.wfFrom_write {m : Memory} : ∀ {lo : Nat} (a : Nat) (v : Byte), Memory.wfFrom blank lo m = true → lo ≤ a →
    Memory.wfFrom blank lo (Memory.write blank m a v) = true := by
  induction m with
  | nil => intro lo a v _ ha; exact Memory.wfFrom_cell ha rfl v
  | cons c m ih =>
    obtain ⟨b, w⟩ := c
    intro lo a v h ha
    have h' := (Memory.wfFrom_cons lo (b, w) m).1 h
    simp only [Memory.write]
    split
    · exact Memory.wfFrom_cell ha ((Memory.wfFrom_cons _ _ _).2 ⟨by simpa using ‹a < b›, h'.2⟩) v
    · split
      · rename_i hab
        exact Memory.wfFrom_cell ha (hab ▸ h'.2.2) v
      · exact (Memory.wfFrom_cons _ _ _).2 ⟨h'.1, h'.2.1, ih a v h'.2.2 (by simp at *; omega)⟩

theorem Memory.read_cell {lo a : Nat} {m : Memory} (hm : Memory.wfFrom blank lo m = true) (ha : a < lo) (v : Byte)
    (x : Nat) : Memory.read blank (Memory.cell blank a v m) x = if x = a then v else Memory.read blank m x := by
  unfold Memory.cell
  split
  · rename_i hv
    split
    · rename_i hx
      rw [hx, Memory.read_below hm ha, hv]
    · rfl
  · rfl

/-- Read after write: the byte written, and every other byte as before. -/
theorem Memory.read_write_from {m : Memory} : ∀ {lo : Nat} (a : Nat) (v : Byte) (x : Nat),
    Memory.wfFrom blank lo m = true →
    Memory.read blank (Memory.write blank m a v) x = if x = a then v else Memory.read blank m x := by
  induction m with
  | nil => intro lo a v x _; exact Memory.read_cell (lo := a + 1) rfl (by omega) v x
  | cons c m ih =>
    obtain ⟨b, w⟩ := c
    intro lo a v x h
    have h' := (Memory.wfFrom_cons lo (b, w) m).1 h
    simp only [Memory.write]
    split
    · rename_i hab
      exact Memory.read_cell (lo := b) ((Memory.wfFrom_cons _ _ _).2 ⟨Nat.le_refl _, h'.2⟩) hab v x
    · split
      · rename_i hab
        subst hab
        rw [Memory.read_cell h'.2.2 (by simp) v x, Memory.read_cons]
        split <;> simp_all
      · rename_i hab
        rw [Memory.read_cons, ih a v x h'.2.2, Memory.read_cons]
        by_cases hx : x = b
        · subst hx
          rw [if_pos rfl, if_neg (by simpa using Ne.symm hab), if_pos rfl]
        · simp [hx]

/-- Listed addresses stay below the array's size. -/
theorem Memory.all_write {size : Nat} {m : Memory} (a : Nat) (v : Byte) (ha : a < size)
    (h : (m.all fun c => decide (c.1 < size)) = true) :
    ((Memory.write blank m a v).all fun c => decide (c.1 < size)) = true := by
  have hcell : ∀ m' : Memory, (m'.all fun c => decide (c.1 < size)) = true →
      ((Memory.cell blank a v m').all fun c => decide (c.1 < size)) = true := by
    intro m' h'
    unfold Memory.cell
    split
    · exact h'
    · simp only [List.all_cons, Bool.and_eq_true, decide_eq_true_eq]; exact ⟨ha, h'⟩
  induction m with
  | nil => exact hcell [] rfl
  | cons c m ih =>
    obtain ⟨b, w⟩ := c
    have h2 := h
    simp only [List.all_cons, Bool.and_eq_true] at h
    simp only [Memory.write]
    split
    · exact hcell _ h2
    · split
      · exact hcell _ h.2
      · simp only [List.all_cons, Bool.and_eq_true]; exact ⟨h.1, ih h.2⟩

/-- Every write inside the array keeps `Memory.wf`. -/
theorem Memory.wf_write {size : Nat} {m : Memory} (hm : Memory.wf blank size m = true) {a : Nat} (ha : a < size)
    (v : Byte) : Memory.wf blank size (Memory.write blank m a v) = true := by
  simp only [Memory.wf, Bool.and_eq_true] at hm ⊢
  exact ⟨Memory.wfFrom_write a v hm.1 (Nat.zero_le _), Memory.all_write a v ha hm.2⟩

/-- Read after write on a canonical array. -/
theorem Memory.read_write {size : Nat} {m : Memory} (hm : Memory.wf blank size m = true) (a : Nat) (v : Byte) (x : Nat) :
    Memory.read blank (Memory.write blank m a v) x = if x = a then v else Memory.read blank m x := by
  simp only [Memory.wf, Bool.and_eq_true] at hm
  exact Memory.read_write_from a v x hm.1

/-- Consecutive writes inside the array keep `Memory.wf`. -/
theorem Memory.wf_writeBytes {size : Nat} (vs : List Byte) : ∀ {m : Memory} {a : Nat},
    Memory.wf blank size m = true → a + vs.length ≤ size →
    Memory.wf blank size (Memory.writeBytes blank m a vs) = true := by
  induction vs with
  | nil => intro m a hm _; exact hm
  | cons v vs ih =>
    intro m a hm ha
    simp only [List.length_cons] at ha
    exact ih (Memory.wf_write hm (by omega) v) (by omega)

/-- Read after consecutive writes: the bytes written, and every other byte as before. -/
theorem Memory.read_writeBytes {size : Nat} (vs : List Byte) : ∀ {m : Memory} {a : Nat},
    Memory.wf blank size m = true → a + vs.length ≤ size → ∀ x,
    Memory.read blank (Memory.writeBytes blank m a vs) x =
      if a ≤ x ∧ x < a + vs.length then vs.getD (x - a) 0 else Memory.read blank m x := by
  induction vs with
  | nil => intro m a _ _ x; rw [if_neg (by simp)]; rfl
  | cons v vs ih =>
    intro m a hm ha x
    simp only [List.length_cons] at ha ⊢
    rw [Memory.writeBytes, ih (Memory.wf_write hm (by omega) v) (by omega) x, Memory.read_write hm]
    by_cases hx : x = a
    · subst hx
      simp
    · by_cases h1 : a + 1 ≤ x ∧ x < a + 1 + vs.length
      · rw [if_pos h1, if_pos (by omega), show x - a = (x - (a + 1)) + 1 by omega]
        simp
      · rw [if_neg h1, if_neg hx, if_neg (by omega)]

/-- Two canonical arrays that read alike are the same list. -/
theorem Memory.ext_wfFrom {m : Memory} : ∀ {lo : Nat} {m' : Memory}, Memory.wfFrom blank lo m = true →
    Memory.wfFrom blank lo m' = true → (∀ a, Memory.read blank m a = Memory.read blank m' a) → m = m' := by
  have first : ∀ {lo : Nat} {c : Host.Cell} {m m' : Memory}, Memory.wfFrom blank lo (c :: m) = true →
      Memory.wfFrom blank (c.1 + 1) m' = true →
      (∀ a, Memory.read blank (c :: m) a = Memory.read blank m' a) → False := by
    intro lo c m m' h h' hr
    have := hr c.1
    rw [Memory.read_cons, if_pos rfl, Memory.read_below h' (by omega)] at this
    exact ((Memory.wfFrom_cons lo c m).1 h).2.1 this
  induction m with
  | nil =>
    intro lo m' _ h' hr
    cases m' with
    | nil => rfl
    | cons c m' => exact (first h' rfl fun a => (hr a).symm).elim
  | cons c m ih =>
    intro lo m' h h' hr
    cases m' with
    | nil => exact (first h rfl hr).elim
    | cons c' m' =>
      have g := (Memory.wfFrom_cons lo c m).1 h
      have g' := (Memory.wfFrom_cons lo c' m').1 h'
      rcases Nat.lt_trichotomy c.1 c'.1 with hlt | heq | hgt
      · exact (first h ((Memory.wfFrom_cons _ _ _).2 ⟨by omega, g'.2⟩) hr).elim
      · obtain ⟨a, v⟩ := c
        obtain ⟨a', v'⟩ := c'
        simp only at heq g g'
        subst heq
        have hv : v = v' := by simpa [Memory.read_cons] using hr a
        subst hv
        refine congrArg _ (ih g.2.2 g'.2.2 fun x => ?_)
        by_cases hx : x = a
        · rw [hx, Memory.read_below g.2.2 (by omega), Memory.read_below g'.2.2 (by omega)]
        · simpa [Memory.read_cons, hx] using hr x
      · exact (first h' ((Memory.wfFrom_cons _ _ _).2 ⟨by omega, g.2⟩) fun a => (hr a).symm).elim

/-! ## Pages -/

theorem putPage_wf {s : State} {a : Word} (h : Memory.wf (flashBlank s.params) s.params.flashSize s.flash = true)
    (ha : a.toNat + 64 ≤ s.params.flashSize) (d : Page) :
    Memory.wf (flashBlank s.params) s.params.flashSize (s.putPage a d) = true :=
  Memory.wf_writeBytes d.toList h (by simpa using ha)

/-- A page written: its 64 bytes are the data, and every other byte is as before (R64). -/
theorem read_putPage {s : State} {a : Word} (h : Memory.wf (flashBlank s.params) s.params.flashSize s.flash = true)
    (ha : a.toNat + 64 ≤ s.params.flashSize) (d : Page) (x : Nat) :
    Memory.read (flashBlank s.params) (s.putPage a d) x =
      if a.toNat ≤ x ∧ x < a.toNat + 64 then d.toList.getD (x - a.toNat) 0
      else Memory.read (flashBlank s.params) s.flash x := by
  rw [State.putPage, Memory.read_writeBytes d.toList h (by simpa using ha) x]
  simp

/-- With no operation in progress a byte reads as the array holds it. -/
theorem flashByte_idle {s : State} (h : s.flashOp = none) (a : Nat) :
    s.flashByte a = Memory.read (flashBlank s.params) s.flash a := by simp [State.flashByte, h]

theorem eepromByte_idle {s : State} (h : s.eepromOp = none) (a : Nat) :
    s.eepromByte a = Memory.read eepromBlank s.eeprom a := by simp [State.eepromByte, h]

/-- FlashRead goes through the port and answers the array's byte (R33, R62). -/
@[simp] theorem readByte_eq (s : State) (a : Word) : s.readByte a = s.flashByte a.toNat := rfl

@[simp] theorem flRddata_driveRdaddr (s : State) (a : Word) : (s.driveRdaddr a).flRddata = s.flashByte a.toNat := rfl

/-- FlashRead answers the array's byte at every address that exists (R60, R62). -/
theorem flashRead_eq {s : State} {a : Word} (h : a.toNat < s.params.flashSize) :
    s.flashRead a = some (s.flashByte a.toNat) := by rw [State.flashRead, if_pos h]; rfl

/-- FlashCmd answers next only for a page that exists, and then drives the port and starts the operation (R64). -/
theorem flashCmd_next {op : FlashOp} {s t : State} (h : s.flashCmd op = .next t) :
    op.pb.toNat + 64 ≤ s.params.flashSize ∧ t.flashOp = some op ∧
      t = { s with ports := t.ports, flashOp := some op } ∧
      t.ports.hoValid = s.ports.hoValid ∧ t.ports.hoTarget = s.ports.hoTarget := by
  unfold State.flashCmd at h
  split at h
  · simp only [Host.Outcome.next.injEq] at h
    subst h
    cases op <;> exact ⟨‹_›, rfl, rfl, rfl, rfl⟩
  · cases h

theorem eepromClamp_lt (a : Word) : eepromClamp a < 512 := by
  unfold eepromClamp eepromLast
  omega

end Sys2Proof.Machine
end

