-- ==== Sys2Proof/Laws/Step.lean ====
section
/-! SUPPORT. What one step is, tick by tick: the lemmas that runs and invariants are proved from without unfolding `step`. -/

namespace Sys2Proof.Machine

/-! ## The present tick -/

theorem now_cons {s : State} {e : Inputs} {es : List Inputs} (h : s.inputs = e :: es) : s.now = e := by
  simp [State.now, h]

/-- A quiet tick under valid parameters is the active rule's. -/
theorem step_quiet {s : State} (hv : ParamsValid s.params) (hq : s.now.event = .quiet) : step s = ruleTick s.now s := by
  unfold step
  rw [if_pos hv, hq]

/-- A quiet tick runs the active rule on the begun tick. -/
theorem step_active {s : State} (hv : ParamsValid s.params) (hq : s.now.event = .quiet) :
    step s = activeRule s.now (s.beginTick s.now) := by
  rw [step_quiet hv hq, ruleTick]

/-- The rule a tick runs is chosen by SEQ. -/
theorem activeRule_seq (e : Inputs) (s : State) : ∀ q, s.seq = q →
    activeRule e s =
      match q with
      | .bootStart => .next (bootStart e s)
      | .bootPoll => .next (bootPoll e s)
      | .receive => .next (rxTick e s)
      | .decode => decodeTick s
      | .program => fpeTick e s
      | .eeprom => .next (eeTick e s)
      | .clear => .next (csqClear s)
      | .exitNp => exitNp s
      | .exitP => fpeTick e s
      | .fatal => .fault .rxFail
      | .halted => .next s
      | .bypassed => .next s := by
  rintro _ rfl
  rfl

/-- What a step that answers next was: a reset, an entry from outside, or a tick of the active rule. -/
theorem step_next {s t : State} (h : step s = .next t) :
    ParamsValid s.params ∧
      (t = s.takeReset s.now ∨ (s.seq.cpuElsewhere = true ∧ t = s.takeEntry s.now) ∨ ruleTick s.now s = .next t) := by
  unfold step at h
  split at h
  · rename_i hv
    refine ⟨hv, ?_⟩
    cases hev : s.now.event <;> rw [hev] at h <;> simp only at h
    · exact .inr (.inr h)
    · exact .inl (Host.Outcome.next.inj h).symm
    · split at h
      · exact .inr (.inl ⟨‹_›, (Host.Outcome.next.inj h).symm⟩)
      · exact .inr (.inr h)
    · split at h
      · cases h
      · exact .inr (.inr h)
  · cases h

/-- A tick of the active rule: time passes in a handed-over or bypassed device, and elsewhere the rule runs on the begun
tick. -/
theorem ruleTick_next {e : Inputs} {s t : State} (h : ruleTick e s = .next t) :
    (s.seq.cpuElsewhere = true ∧ t = s.beginTick e) ∨
      (s.seq.terminal = false ∧ activeRule e (s.beginTick e) = .next t) := by
  unfold ruleTick at h
  have := activeRule_seq e (s.beginTick e) s.seq (by simp)
  cases hs : s.seq <;> simp_all [Seq.terminal, Seq.cpuElsewhere]

/-! ## Runs -/

@[simp] theorem run_zero (s : State) : run 0 s = .next s := rfl

theorem run_succ {s t : State} (h : step s = .next t) (n : Nat) : run (n + 1) s = run n t := by simp [run, h]

/-- Runs compose. -/
theorem run_add {m : Nat} : ∀ {s t : State}, run m s = .next t → ∀ n, run (m + n) s = run n t := by
  induction m with
  | zero =>
    intro s t h n
    cases h
    simp
  | succ m ih =>
    intro s t h n
    rw [run] at h
    split at h
    · rename_i u hu
      rw [Nat.add_right_comm, run_succ hu, ih h]
    · cases h
    · cases h

/-! ## The engines' ticks -/

/-- FPE's tick in each of its states. -/
theorem fpeTick_state (e : Inputs) (s : State) : ∀ q, s.fpe.state = q →
    fpeTick e s =
      match q with
      | .idle => if s.seq = .exitP then exitPStart s else .next s
      | .enter => .next (fpeEnter s)
      | .assemble => fpeAssemble s
      | .intercept => interceptTick s
      | .erase => fpeErase s
      | .eraseWait => .next (fpeEraseWait e s)
      | .write => fpeWrite s
      | .writeWait => .next (fpeWriteWait e s)
      | .done => .next (fpeDone s) := by
  rintro _ rfl
  rfl

/-- ENTRY_JUMP_WORD is a relative jump (R104, R108). -/
theorem isRjmp_entryJumpWord (p : Params) : isRjmp (entryJumpWord p) = true := by
  have h : ((0xC000#16 ||| BitVec.ofInt 16 ((((p.blEntry / 2 : Nat) : Int) - (0 : Nat) - 1) % 4096)).extractLsb' 12 4)
      = 0b1100#4 := by
    have h0 : 0 ≤ ((((p.blEntry / 2 : Nat) : Int) - (0 : Nat) - 1) % 4096) := Int.emod_nonneg _ (by decide)
    have h1 : ((((p.blEntry / 2 : Nat) : Int) - (0 : Nat) - 1) % 4096) < 4096 := Int.emod_lt_of_pos _ (by decide)
    generalize ((((p.blEntry / 2 : Nat) : Int) - (0 : Nat) - 1) % 4096) = z at h0 h1
    obtain ⟨n, rfl⟩ := Int.eq_ofNat_of_zero_le h0
    have hn : n < 4096 := by omega
    rw [BitVec.extractLsb'_or, show (BitVec.ofInt 16 (n : Int)) = BitVec.ofNat 16 n from by simp]
    have : (BitVec.ofNat 16 n).extractLsb' 12 4 = 0#4 := by
      apply BitVec.eq_of_toNat_eq
      simp [BitVec.extractLsb'_toNat, Nat.shiftRight_eq_div_pow]
      omega
    rw [this]
    decide
  simp only [isRjmp, entryJumpWord, encodeRjmp, h, beq_self_eq_true]

/-- A host word read as an instruction is a relative jump, and intercepting the instruction is intercepting the word
(R106, R190). -/
theorem decodeHostWord_ok {p : Params} {w : Word} {i : Instr} (h : decodeHostWord p w = .ok i) :
    isRjmp w = true ∧
      ((i = .entryJumpWord ∧ w = entryJumpWord p) ∨
        (i = .rjmp (w.extractLsb' 0 12) ∧ w ≠ entryJumpWord p ∧ rjmpWord (w.extractLsb' 0 12) = w)) := by
  unfold decodeHostWord at h
  split at h
  · cases h
    rename_i hw
    exact ⟨hw ▸ isRjmp_entryJumpWord p, .inl ⟨rfl, hw⟩⟩
  · split at h
    · rename_i hw hr
      cases h
      refine ⟨hr, .inr ⟨rfl, hw, ?_⟩⟩
      simp only [isRjmp, beq_iff_eq] at hr
      rw [rjmpWord, ← hr]
      apply BitVec.eq_of_toNat_eq
      rw [BitVec.toNat_append, BitVec.extractLsb'_toNat, BitVec.extractLsb'_toNat, Nat.shiftRight_eq_div_pow,
        Nat.shiftRight_zero, Nat.shiftLeft_eq, Nat.mul_comm,
        ← Nat.two_pow_add_eq_or_of_lt (Nat.mod_lt _ (by decide))]
      have := w.isLt
      omega
    · cases h

/-- A word that is no relative jump is no host instruction (R106, R191). -/
theorem decodeHostWord_error {p : Params} {w : Word} (h : isRjmp w = false) :
    decodeHostWord p w = .error (.notRelativeJump w) := by
  unfold decodeHostWord
  rw [if_neg, if_neg (by simp [h])]
  rintro rfl
  simp [isRjmp_entryJumpWord] at h

/-- INTERCEPT either intercepts the word the page buffer starts with or passes (R163, R190, R191). -/
theorem interceptTick_cases (s : State) :
    (s.fpe.pb = 0 ∧ isRjmp (word0 s.fpe.pbuf) = true ∧ interceptTick s = .next (interceptWord (word0 s.fpe.pbuf) s)) ∨
      ((s.fpe.pb ≠ 0 ∨ isRjmp (word0 s.fpe.pbuf) = false) ∧ interceptTick s = .next (interceptSkip s)) := by
  unfold interceptTick interceptFetch
  by_cases hpb : s.fpe.pb = 0
  · rw [if_pos hpb]
    cases hr : isRjmp (word0 s.fpe.pbuf) with
    | false => exact .inr ⟨.inr rfl, by rw [decodeHostWord_error hr]; rfl⟩
    | true =>
      refine .inl ⟨hpb, rfl, ?_⟩
      cases hd : decodeHostWord s.params (word0 s.fpe.pbuf) with
      | error e =>
        unfold decodeHostWord at hd
        split at hd
        · cases hd
        · cases hd
      | ok i =>
        obtain ⟨_, ⟨rfl, hw⟩ | ⟨rfl, _, hw⟩⟩ := decodeHostWord_ok hd
        · simp [Except.toOption, exec, execEntryJumpWord, hw]
        · simp [Except.toOption, exec, execRjmp, hw]
  · rw [if_neg hpb]
    exact .inr ⟨.inl hpb, rfl⟩

end Sys2Proof.Machine
end

