-- ==== Sys2Proof/Laws/Engines.lean ====
section
/-! SUPPORT. For each engine, once, everything one tick of it can do. The invariants and runs cite these instead of
unfolding an engine. -/

namespace Sys2Proof.Machine

/-- What the DECODE step of a frame can do (R222 to R229): continue, start a page operation on an application page, go to the
persisting exit, or start the EEPROM sequence. -/
theorem exec_decodeCmd_cases (c : Byte) (f : Fields) (s : State) :
    exec (decodeCmd c f) s = .next (s.goto .clear) ∨
      (decodeCmd c f = .cmdProgram f ∧ selfProtected s.params (pageOperand f) = false ∧
        exec (decodeCmd c f) s = .next ((startPage (pageOperand f) f.payload s).goto .program)) ∨
      (decodeCmd c f = .cmdRun f ∧ exec (decodeCmd c f) s = .next (s.goto .exitP)) ∨
      (decodeCmd c f = .cmdWriteEeprom f ∧
        exec (decodeCmd c f) s =
          .next ({ s with ee := { state := .next, base := pageOperand f, len := f.length, i := 0 } }.goto .eeprom)) := by
  unfold decodeCmd
  split
  · exact .inl rfl
  split
  · exact .inl rfl
  split
  · cases h : selfProtected s.params (pageOperand f)
    · exact .inr (.inl ⟨rfl, rfl, by simp [exec, execProgram, h]⟩)
    · exact .inl (by simp [exec, execProgram, h, noEffect])
  split
  · exact .inr (.inr (.inl ⟨rfl, rfl⟩))
  split
  · exact .inr (.inr (.inr ⟨rfl, rfl⟩))
  iterate 6 (split; exact .inl rfl)
  exact .inl rfl

/-- What a DECODE tick can do. -/
theorem decodeTick_cases (s : State) :
    (s.rx.ok = false ∧ decodeTick s = .next s.raiseFatal) ∨
      (s.rx.ok = true ∧
        (decodeTick s = .next (s.goto .clear) ∨
          (∃ f, decodeFrame s.frame = .cmdProgram f ∧ selfProtected s.params (pageOperand f) = false ∧
            decodeTick s = .next ((startPage (pageOperand f) f.payload s).goto .program)) ∨
          (∃ f, decodeFrame s.frame = .cmdRun f ∧ decodeTick s = .next (s.goto .exitP)) ∨
          (∃ f, decodeFrame s.frame = .cmdWriteEeprom f ∧
            decodeTick s =
              .next ({ s with ee := { state := .next, base := pageOperand f, len := f.length, i := 0 } }.goto .eeprom)))) := by
  unfold decodeTick
  cases hok : s.rx.ok
  · exact .inl ⟨rfl, rfl⟩
  · refine .inr ⟨rfl, ?_⟩
    simp only [if_true]
    obtain h | ⟨hf, hp, h⟩ | ⟨hf, h⟩ | ⟨hf, h⟩ := exec_decodeCmd_cases s.frame[0] (decodeFields s.frame) s
    · exact .inl h
    · exact .inr (.inl ⟨_, hf, hp, h⟩)
    · exact .inr (.inr (.inl ⟨_, hf, h⟩))
    · exact .inr (.inr (.inr ⟨_, hf, h⟩))

/-- What a BOOT_POLL tick can do (R283 to R285). -/
theorem bootPoll_cases (e : Inputs) (s : State) :
    (e.bootIn ≠ s.bsq.lref ∧ bootPoll e s = (s.emit .statusOff).goto .exitNp) ∨
      (e.bootIn = s.bsq.lref ∧ s.params.bootThreshold < s.bsq.cnt + 1 ∧
        bootPoll e s = ({ s with bsq := { s.bsq with cnt := s.bsq.cnt + 1 } }.emit .statusOff).gotoReceive) ∨
      (e.bootIn = s.bsq.lref ∧ s.bsq.cnt + 1 ≤ s.params.bootThreshold ∧
        bootPoll e s = { s with bsq := { s.bsq with cnt := s.bsq.cnt + 1 } }) := by
  unfold bootPoll
  by_cases h : e.bootIn = s.bsq.lref
  · by_cases h2 : s.params.bootThreshold < s.bsq.cnt + 1
    · exact .inr (.inl ⟨h, h2, by simp [h, h2]⟩)
    · exact .inr (.inr ⟨h, by omega, by simp [h, h2]⟩)
  · exact .inl ⟨h, by simp [h]⟩

/-- RX writes its own registers, the timer and FRAME, and SEQ when it finishes; nothing else (R120). -/
theorem rxTick_frame (e : Inputs) (s : State) :
    ∃ rx tmr frame seq, rxTick e s = { s with rx := rx, tmr := tmr, frame := frame, seq := seq } ∧
      (seq = s.seq ∨ (seq = .decode ∧ rx.ok = true)) := by
  unfold rxTick
  split
  · exact ⟨_, s.tmr, s.frame, s.seq, rfl, .inl rfl⟩
  split
  · unfold rxWaitE0
    split
    · exact ⟨_, _, s.frame, s.seq, rfl, .inl rfl⟩
    · exact ⟨s.rx, s.tmr, s.frame, s.seq, rfl, .inl rfl⟩
  · unfold rxCal
    split
    · exact ⟨_, _, s.frame, s.seq, rfl, .inl rfl⟩
    · exact ⟨s.rx, s.tmr, s.frame, s.seq, rfl, .inl rfl⟩
  · unfold rxMarkDelay
    split
    · split
      · exact ⟨_, s.tmr, s.frame, s.seq, rfl, .inl rfl⟩
      · exact ⟨_, s.tmr, s.frame, s.seq, rfl, .inl rfl⟩
    · exact ⟨s.rx, s.tmr, s.frame, s.seq, rfl, .inl rfl⟩
  · unfold rxMarkEdge
    split
    · exact ⟨_, _, s.frame, s.seq, rfl, .inl rfl⟩
    · exact ⟨s.rx, s.tmr, s.frame, s.seq, rfl, .inl rfl⟩
  · unfold rxDataEdge
    split
    · exact ⟨_, _, s.frame, s.seq, rfl, .inl rfl⟩
    · exact ⟨s.rx, s.tmr, s.frame, s.seq, rfl, .inl rfl⟩
  · unfold rxDataDelay
    split
    · dsimp only
      split
      · exact ⟨_, s.tmr, _, .decode, rfl, .inr ⟨rfl, rfl⟩⟩
      · exact ⟨_, s.tmr, _, s.seq, rfl, .inl rfl⟩
    · exact ⟨s.rx, s.tmr, s.frame, s.seq, rfl, .inl rfl⟩

/-- MERGE starts only on a range inside one page (R168). -/
theorem startMerge_next {a : Word} {data : List Byte} {s t : State} (h : startMerge a data s = .next t) :
    MergeRangeOk s.params a data.length ∧
      t = { s with fpe := { s.fpe with mode := .merge, pb := pageBase a, mrgA := a, mrgLen := BitVec.ofNat 7 data.length,
                                       mrgData := overwrite s.fpe.mrgData data, state := .enter } } := by
  unfold startMerge at h
  split at h
  · exact ⟨‹_›, (Host.Outcome.next.inj h).symm⟩
  · cases h

/-- ASSEMBLE leaves fl_rdaddr as it is or at a byte the merge does not cover (R169). -/
theorem driveReadBack_cases (s : State) :
    driveReadBack s = s ∨
      ∃ j, j < 64 ∧ mergeCovers s j = false ∧ driveReadBack s = s.driveRdaddr (fpeAddr s j) := by
  unfold driveReadBack
  cases h : lastReadBack s with
  | none => exact .inl rfl
  | some j =>
    have := List.mem_of_getLast? h
    simp only [List.mem_filter, List.mem_range, Bool.not_eq_true'] at this
    exact .inr ⟨j, this.1, this.2, rfl⟩

/-- What an FPE tick that answers next can do, state by state (R160 to R170). -/
theorem fpeTick_next {e : Inputs} {s t : State} (h : fpeTick e s = .next t) :
    (s.fpe.state = .idle ∧ s.seq ≠ .exitP ∧ t = s) ∨
      (s.fpe.state = .idle ∧ s.seq = .exitP ∧ exitPStart s = .next t) ∨
      (s.fpe.state = .enter ∧ t = fpeEnter s) ∨
      (s.fpe.state = .assemble ∧ s.fpe.pb.toNat + 64 ≤ s.params.flashSize ∧
        t = { driveReadBack s with fpe := { s.fpe with pbuf := Vector.ofFn (assembledByte s), state := .intercept } }) ∨
      (s.fpe.state = .intercept ∧ s.fpe.pb = 0 ∧ isRjmp (word0 s.fpe.pbuf) = true ∧
        t = interceptWord (word0 s.fpe.pbuf) s) ∨
      (s.fpe.state = .intercept ∧ (s.fpe.pb ≠ 0 ∨ isRjmp (word0 s.fpe.pbuf) = false) ∧ t = interceptSkip s) ∨
      (s.fpe.state = .erase ∧ fpeErase s = .next t) ∨
      (s.fpe.state = .eraseWait ∧ t = fpeEraseWait e s) ∨
      (s.fpe.state = .write ∧ fpeWrite s = .next t) ∨
      (s.fpe.state = .writeWait ∧ t = fpeWriteWait e s) ∨
      (s.fpe.state = .done ∧ t = fpeDone s) := by
  rw [fpeTick_state e s _ rfl] at h
  cases hf : s.fpe.state <;> simp only [hf] at h
  · split at h
    · exact .inr (.inl ⟨rfl, ‹_›, h⟩)
    · exact .inl ⟨rfl, ‹_›, (Host.Outcome.next.inj h).symm⟩
  · exact .inr (.inr (.inl ⟨rfl, (Host.Outcome.next.inj h).symm⟩))
  · unfold fpeAssemble at h
    split at h
    · exact .inr (.inr (.inr (.inl ⟨rfl, ‹_›, (Host.Outcome.next.inj h).symm⟩)))
    · cases h
  · obtain ⟨h1, h2, h'⟩ | ⟨h1, h'⟩ := interceptTick_cases s <;> rw [h'] at h
    · exact .inr (.inr (.inr (.inr (.inl ⟨rfl, h1, h2, (Host.Outcome.next.inj h).symm⟩))))
    · exact .inr (.inr (.inr (.inr (.inr (.inl ⟨rfl, h1, (Host.Outcome.next.inj h).symm⟩)))))
  · exact .inr (.inr (.inr (.inr (.inr (.inr (.inl ⟨rfl, h⟩))))))
  · exact .inr (.inr (.inr (.inr (.inr (.inr (.inr (.inl ⟨rfl, (Host.Outcome.next.inj h).symm⟩)))))))
  · exact .inr (.inr (.inr (.inr (.inr (.inr (.inr (.inr (.inl ⟨rfl, h⟩))))))))
  · exact .inr (.inr (.inr (.inr (.inr (.inr (.inr (.inr (.inr (.inl ⟨rfl, (Host.Outcome.next.inj h).symm⟩)))))))))
  · exact .inr (.inr (.inr (.inr (.inr (.inr (.inr (.inr (.inr (.inr ⟨rfl, (Host.Outcome.next.inj h).symm⟩)))))))))

/-- The pointer's two addresses, under valid parameters (R9, R72). -/
theorem pointerAddr_toNat {p : Params} (hv : ParamsValid p) :
    (pointerAddr p).toNat = p.blStart - 2 ∧ (pointerHighAddr p).toNat = p.blStart - 1 := by
  obtain ⟨-, h2, -, -, h5, -⟩ := hv
  simp only [pointerAddr, pointerHighAddr, BitVec.toNat_ofNat]
  omega

/-- EXIT_NP under valid parameters: the handoff to the pointer it reads (R194). -/
theorem exitNp_eq {s : State} (hv : ParamsValid s.params) :
    exitNp s = .next ({ s.driveRdaddr (pointerHighAddr s.params) with entryT := s.entryP }.handoff s.entryP) := by
  obtain ⟨h0, h1⟩ := pointerAddr_toNat hv
  obtain ⟨-, -, -, h4, h5, -⟩ := hv
  rw [exitNp, flashRead_eq (by omega), flashRead_eq (by omega), h0, h1]
  rfl

/-- An EEPROM tick writes the sequence's registers, the interrupt enable, the EEPROM port and the request, and SEQ at the
end; nothing else (R231). -/
theorem eeTick_cases (e : Inputs) (s : State) :
    (s.ee.state = .next ∧ s.ee.i = s.ee.len ∧ eeTick e s = s.goto .exitNp) ∨
      (s.ee.state = .next ∧ s.ee.i ≠ s.ee.len ∧
        eeTick e s = { s.maskGie with ee := { s.ee with state := .wait } }) ∨
      (s.ee.state = .wait ∧ e.eeBusy = true ∧ eeTick e s = s) ∨
      (s.ee.state = .wait ∧ e.eeBusy = false ∧ eeTick e s = { s with ee := { s.ee with state := .issue } }) ∨
      (s.ee.state = .issue ∧ eeTick e s = eeAdvance (s.eepromWrite (eeAddress s) (eeData e s))) := by
  unfold eeTick
  cases hs : s.ee.state
  · by_cases h : s.ee.i = s.ee.len
    · exact .inl ⟨rfl, h, by simp [h]⟩
    · exact .inr (.inl ⟨rfl, h, by simp [h]⟩)
  · cases h : e.eeBusy
    · exact .inr (.inr (.inr (.inl ⟨rfl, rfl, by simp⟩)))
    · exact .inr (.inr (.inl ⟨rfl, rfl, by simp⟩))
  · exact .inr (.inr (.inr (.inr ⟨rfl, rfl⟩)))

/-- What a tick of the active rule can do, by SEQ, on the begun tick b. -/
theorem activeRule_next {e : Inputs} {b t : State} (ht : b.seq.terminal = false) (h : activeRule e b = .next t) :
    (b.seq = .bootStart ∧ t = bootStart e b) ∨ (b.seq = .bootPoll ∧ t = bootPoll e b) ∨
      (b.seq = .receive ∧ t = rxTick e b) ∨ (b.seq = .decode ∧ decodeTick b = .next t) ∨
      (b.FpeCalled ∧ fpeTick e b = .next t) ∨ (b.seq = .eeprom ∧ t = eeTick e b) ∨
      (b.seq = .clear ∧ t = csqClear b) ∨ (b.seq = .exitNp ∧ exitNp b = .next t) := by
  rw [activeRule_seq e b b.seq rfl] at h
  unfold State.FpeCalled
  cases hs : b.seq <;> simp only [hs] at h
  all_goals first
    | (exfalso; rw [hs] at ht; exact absurd ht (by decide))
    | (first | cases h | skip)
  all_goals simp_all

end Sys2Proof.Machine
end

