-- ==== Sys2Proof/Laws/PerInstr.lean ====
section
/-! SUPPORT. Statements about every instruction, one lemma per constructor. -/

namespace Sys2Proof.Laws

namespace EncodeLength

/-- The encoding has its format's number of bytes: 71 for a frame (R98), 2 for a host word (R104). -/
def Statement (i : Instr) : Prop :=
  ∀ p : Params, (encode p i).length =
    match i.format with
    | .frame => 71
    | .hostWord => 2

/-- Every frame has its command byte, six field bytes and 64 payload bytes (R94). -/
theorem encodeFields_length (c : Byte) (f : Fields) : (encodeFields c f).length = 71 := by simp [encodeFields]

theorem cmdNone (f : Fields) : Statement (.cmdNone f) := fun _ => encodeFields_length _ f
theorem cmdTest (f : Fields) : Statement (.cmdTest f) := fun _ => encodeFields_length _ f
theorem cmdProgram (f : Fields) : Statement (.cmdProgram f) := fun _ => encodeFields_length _ f
theorem cmdRun (f : Fields) : Statement (.cmdRun f) := fun _ => encodeFields_length _ f
theorem cmdWriteEeprom (f : Fields) : Statement (.cmdWriteEeprom f) := fun _ => encodeFields_length _ f
theorem cmdExit (f : Fields) : Statement (.cmdExit f) := fun _ => encodeFields_length _ f
theorem cmd06To07 (b : BitVec 1) (f : Fields) : Statement (.cmd06To07 b f) := fun _ => encodeFields_length _ f
theorem cmd08To0F (b : BitVec 3) (f : Fields) : Statement (.cmd08To0F b f) := fun _ => encodeFields_length _ f
theorem cmd10To1F (b : BitVec 4) (f : Fields) : Statement (.cmd10To1F b f) := fun _ => encodeFields_length _ f
theorem cmd20To3F (b : BitVec 5) (f : Fields) : Statement (.cmd20To3F b f) := fun _ => encodeFields_length _ f
theorem cmd40To7F (b : BitVec 6) (f : Fields) : Statement (.cmd40To7F b f) := fun _ => encodeFields_length _ f
theorem cmd80ToFF (b : BitVec 7) (f : Fields) : Statement (.cmd80ToFF b f) := fun _ => encodeFields_length _ f
theorem rjmp (k : BitVec 12) : Statement (.rjmp k) := fun _ => rfl
theorem entryJumpWord : Statement .entryJumpWord := fun _ => rfl

end EncodeLength

end Sys2Proof.Laws
end

