-- ==== Sys2Proof/Tests/Slice0.lean ====
section
/-! SUPPORT. Tests. Every expected value is the spec's: the encodings of 30_encoding.md, the vectors of 95_test_vectors.md
(named L1 and L2), or a hand calculation from the rule named. -/

namespace Sys2Proof.Tests

open Machine

/-! ## Well-formedness: what the checks refuse -/

/-- ENTRY_JUMP_WORD has a constructor of its own, so its other spelling is ill formed (R108: 0xCDFF has offset 0xDFF). -/
theorem test_wf_refuses_entry_jump_as_rjmp : Instr.WellFormed Params.example8k (.rjmp 0xDFF) = false := by decide
theorem test_wf_accepts_rjmp : Instr.WellFormed Params.example8k (.rjmp 0x0FF) = true := by decide
theorem test_wf_depends_on_the_entry :
    Instr.WellFormed { Params.example8k with blEntry := 0x1C02 } (.rjmp 0xDFF) = true := by decide

/-- Each constraint of R9, R10 and D14 refuses a configuration that breaks it alone. -/
theorem test_params_valid : ParamsValid Params.example8k := by decide
theorem test_params_smallest : ParamsValid ⟨256, 128, 128, 0, 0xFF⟩ := by decide
theorem test_params_refuse_odd_size : ¬ParamsValid { Params.example8k with flashSize := 8191 } := by decide
theorem test_params_refuse_odd_start : ¬ParamsValid { Params.example8k with blStart := 0x1BFE } := by decide
theorem test_params_refuse_low_start : ¬ParamsValid ⟨256, 64, 64, 3, 0xFF⟩ := by decide
theorem test_params_refuse_no_region : ¬ParamsValid ⟨256, 256, 256, 3, 0xFF⟩ := by decide
theorem test_params_refuse_odd_entry : ¬ParamsValid { Params.example8k with blEntry := 0x1C01 } := by decide
theorem test_params_refuse_low_entry : ¬ParamsValid { Params.example8k with blEntry := 0x1BFE } := by decide
theorem test_params_refuse_high_entry : ¬ParamsValid { Params.example8k with blEntry := 0x2000 } := by decide
theorem test_params_refuse_large_flash : ¬ParamsValid ⟨65600, 0x1C00, 0x1C00, 3, 0xFF⟩ := by decide
/-- With 12 KiB of flash an entry past the reach of one relative jump is refused (D14). -/
theorem test_params_refuse_out_of_reach : ¬ParamsValid ⟨12288, 0x1400, 0x1400, 3, 0xFF⟩ := by decide

/-! ## Decoding, word by word (R94 to R97, R104, R108) -/

/-- A frame's bytes as R94 lays them out: CMD, page_number 3, length 64, checksum 0x1234, payload FF C0 00 ... -/
def frameBytes (cmd : Byte) : List Byte := [cmd, 0x03, 0x00, 0x40, 0x00, 0x34, 0x12, 0xFF, 0xC0] ++ List.replicate 62 0

/-- Those fields, by R95. -/
def fields3 : Fields :=
  { pageNumber := 3, length := 64, checksum := 0x1234, payload := ((Vector.replicate 64 0).set 0 0xFF).set 1 0xC0 }

theorem test_decode_none : decode Params.example8k .frame (frameBytes 0x00) = .ok (.cmdNone fields3) := by rfl
theorem test_decode_test : decode Params.example8k .frame (frameBytes 0x01) = .ok (.cmdTest fields3) := by rfl
theorem test_decode_program : decode Params.example8k .frame (frameBytes 0x02) = .ok (.cmdProgram fields3) := by rfl
theorem test_decode_run : decode Params.example8k .frame (frameBytes 0x03) = .ok (.cmdRun fields3) := by rfl
theorem test_decode_write_eeprom : decode Params.example8k .frame (frameBytes 0x04) = .ok (.cmdWriteEeprom fields3) := by
  rfl
theorem test_decode_exit : decode Params.example8k .frame (frameBytes 0x05) = .ok (.cmdExit fields3) := by rfl
theorem test_decode_06 : decode Params.example8k .frame (frameBytes 0x06) = .ok (.cmd06To07 0 fields3) := by rfl
theorem test_decode_07 : decode Params.example8k .frame (frameBytes 0x07) = .ok (.cmd06To07 1 fields3) := by rfl
theorem test_decode_08 : decode Params.example8k .frame (frameBytes 0x08) = .ok (.cmd08To0F 0 fields3) := by rfl
theorem test_decode_0F : decode Params.example8k .frame (frameBytes 0x0F) = .ok (.cmd08To0F 7 fields3) := by rfl
theorem test_decode_10 : decode Params.example8k .frame (frameBytes 0x10) = .ok (.cmd10To1F 0 fields3) := by rfl
theorem test_decode_1F : decode Params.example8k .frame (frameBytes 0x1F) = .ok (.cmd10To1F 15 fields3) := by rfl
theorem test_decode_20 : decode Params.example8k .frame (frameBytes 0x20) = .ok (.cmd20To3F 0 fields3) := by rfl
theorem test_decode_3F : decode Params.example8k .frame (frameBytes 0x3F) = .ok (.cmd20To3F 31 fields3) := by rfl
theorem test_decode_40 : decode Params.example8k .frame (frameBytes 0x40) = .ok (.cmd40To7F 0 fields3) := by rfl
theorem test_decode_7F : decode Params.example8k .frame (frameBytes 0x7F) = .ok (.cmd40To7F 63 fields3) := by rfl
theorem test_decode_80 : decode Params.example8k .frame (frameBytes 0x80) = .ok (.cmd80ToFF 0 fields3) := by rfl
theorem test_decode_FF : decode Params.example8k .frame (frameBytes 0xFF) = .ok (.cmd80ToFF 127 fields3) := by rfl
theorem test_encode_program : encode Params.example8k (.cmdProgram fields3) = frameBytes 0x02 := by rfl
theorem test_encode_FF : encode Params.example8k (.cmd80ToFF 127 fields3) = frameBytes 0xFF := by rfl

/-- A short and a long byte string are no frame (R98). -/
theorem test_decode_short : decode Params.example8k .frame (List.replicate 70 0) = .error (.wrongLength 70) := by rfl
theorem test_decode_long : decode Params.example8k .frame (List.replicate 72 0) = .error (.wrongLength 72) := by rfl

/-- L2.RJ.1, L2.RJ.7 and L2.RJ.8 as bytes in memory order: FF C0, FF CD and 0C 94. -/
theorem test_decode_rjmp : decode Params.example8k .hostWord [0xFF, 0xC0] = .ok (.rjmp 0x0FF) := by rfl
theorem test_decode_entry_jump : decode Params.example8k .hostWord [0xFF, 0xCD] = .ok .entryJumpWord := by rfl
theorem test_decode_other_word : decode Params.example8k .hostWord [0x0C, 0x94] = .error (.notRelativeJump 0x940C) := by
  rfl
theorem test_decode_one_byte : decode Params.example8k .hostWord [0xFF] = .error (.wrongLength 1) := by rfl
theorem test_encode_rjmp : encode Params.example8k (.rjmp 0x0FF) = [0xFF, 0xC0] := by decide
theorem test_encode_entry_jump : encode Params.example8k .entryJumpWord = [0xFF, 0xCD] := by decide

/-- The opcode table's own words. -/
theorem test_table_program : (decodeTableWord 8 0x02).isSome = true := by decide
theorem test_table_entry_jump : decodeTableWord 16 0xCDFF = some .entryJumpWord := by decide
theorem test_table_rjmp : decodeTableWord 16 0xC000 = some (.rjmp 0) := by decide

/-! ## Relative jumps (L2.RJ) -/

theorem test_rjmp_targets :
    ([0xC0FF, 0xC000, 0xCFFF, 0xC7FF, 0xC800, 0xC1FF, 0xCDFF].map fun w => rjmpTarget Params.example8k w 0) =
      [0x0100, 0x0001, 0x0000, 0x0800, 0x0801, 0x0200, 0x0E00] := by decide
theorem test_not_rjmp : ([0x940C, 0xFFFF, 0x0000, 0xBFFF, 0xD000].map isRjmp) = [false, false, false, false, false] := by
  decide
theorem test_encode_rjmp_words : encodeRjmp 0 0x0E00 = 0xCDFF ∧ encodeRjmp 0 0x0100 = 0xC0FF ∧ encodeRjmp 0 0 = 0xCFFF := by
  decide

/-! ## Bytes, pages and the line code (L2.ENC, L2.MEM) -/

theorem test_page_base : pageBase 0x1BFE = 0x1BC0 ∧ pageBase 0x00C5 = 0x00C0 := by decide
theorem test_page_addr_wraps : pageAddr 1027 = 0x00C0 ∧ pageAddr 1136 = 0x1C00 ∧ pageAddr 1023 = 65472 := by decide
theorem test_eeprom_clamp : [0, 511, 512, 1000, 65535].map eepromClamp = [0, 511, 511, 511, 511] := by decide
theorem test_line_cells :
    cellLevels 8 4 true false = [false, false, false, false, false, false, false, false] ∧
      cellLevels 8 4 true true = [false, false, false, false, true, true, true, true] := by decide
/-- L2.ENC.4: data cells 1 0 1 0 0 0 0 1 pack to 0xA1. -/
theorem test_bit_packing :
    ([(0, true), (1, false), (2, true), (3, false), (4, false), (5, false), (6, false), (7, true)].foldl
      (fun fr c => putDataBit fr c.1 c.2) (Vector.replicate 71 0x55))[0] = 0xA1 := by decide
/-- L2.RX.1 to L2.RX.7. -/
theorem test_sampling_delay :
    ([64, 16, 24, 32, 100, 2040, 10].map samplingDelay) = [6, 1, 2, 3, 9, 191, 0] := by decide
theorem test_array_write_is_canonical :
    Memory.write (fun _ => 0xFF) [(3, 1)] 5 2 = [(3, 1), (5, 2)] ∧ Memory.write (fun _ => 0xFF) [(3, 1)] 3 0xFF = [] ∧
      Memory.wf (fun _ => 0xFF) 8 [(5, 2), (3, 1)] = false := by decide

/-! ## States -/

/-- The reset state at another SEQ, with the ticks to come. -/
def stateAt (q : Seq) (es : List Inputs) : State := { State.reset with seq := q, inputs := es }

/-- The same with a command byte, a page number and a length in FRAME, and a successful reception. -/
def received (cmd page len : Byte) (es : List Inputs) : State :=
  { stateAt .decode es with
    rx := { State.reset.rx with ok := true }
    frame := ((State.reset.frame.set 0 cmd).set 1 page).set 3 len }

/-- FPE at a state of its own, called by Program, on a page. -/
def engineAt (st : FpeState) (pb : Word) (es : List Inputs) : State :=
  { stateAt .program es with fpe := { State.reset.fpe with state := st, pb := pb } }

/-- RX at a state of its own, past its first tick, with the reference level 0. -/
def receiverAt (st : RxState) (es : List Inputs) : State :=
  { stateAt .receive es with rx := { State.reset.rx with state := st } }

/-- The EEPROM sequence at a state of its own. -/
def sequenceAt (st : EeState) (i len : Word) (es : List Inputs) : State :=
  { stateAt .eeprom es with ee := { State.reset.ee with state := st, i := i, len := len } }

def q0 : Inputs := Inputs.quiet
def line1 : Inputs := { q0 with rxIn := true }
def boot1 : Inputs := { q0 with bootIn := true }
def flashBusy : Inputs := { q0 with flBusy := true }
def eepromBusy : Inputs := { q0 with eeBusy := true }
def resetTick : Inputs := { q0 with event := .reset }
def irqTick : Inputs := { q0 with event := .interrupt }

/-- A field of the next state, where there is one. -/
def after {α : Type} (o : Host.Outcome State Fault Refusal) (f : State → α) : Option α :=
  match o with
  | .next t => some (f t)
  | .fault _ => none
  | .refused _ => none

/-! ## Instructions, one step each -/

theorem test_exec_none : after (exec (.cmdNone fields3) (stateAt .decode [])) (·.seq) = some .clear := by decide
theorem test_exec_test : after (exec (.cmdTest fields3) (stateAt .decode [])) (·.seq) = some .clear := by decide
/-- L2.CMD.3 at DECODE: page 3 is 0x00C0. -/
theorem test_exec_program :
    after (exec (.cmdProgram fields3) (stateAt .decode [])) (fun t => (t.seq, t.fpe.state, t.fpe.pb, t.fpe.pbuf[1])) =
      some (.program, .enter, 0x00C0, 0xC0) := by decide
/-- L2.CMD.5: page 112 is ignored; L2.CMD.6: page 1136 wraps to it. -/
theorem test_exec_program_ignored :
    after (exec (.cmdProgram { fields3 with pageNumber := 112 }) (stateAt .decode [])) (·.seq) = some .clear ∧
      after (exec (.cmdProgram { fields3 with pageNumber := 1136 }) (stateAt .decode [])) (·.seq) = some .clear := by decide
theorem test_exec_run : after (exec (.cmdRun fields3) (stateAt .decode [])) (·.seq) = some .exitP := by decide
theorem test_exec_write_eeprom :
    after (exec (.cmdWriteEeprom { fields3 with pageNumber := 1023 }) (stateAt .decode []))
      (fun t => (t.seq, t.ee.state, t.ee.base, t.ee.len, t.ee.i)) = some (.eeprom, .next, 65472, 64, 0) := by decide
theorem test_exec_exit : after (exec (.cmdExit fields3) (stateAt .decode [])) (·.seq) = some .clear := by decide
theorem test_exec_06 : after (exec (.cmd06To07 0 fields3) (stateAt .decode [])) (·.seq) = some .clear := by decide
theorem test_exec_08 : after (exec (.cmd08To0F 0 fields3) (stateAt .decode [])) (·.seq) = some .clear := by decide
theorem test_exec_10 : after (exec (.cmd10To1F 0 fields3) (stateAt .decode [])) (·.seq) = some .clear := by decide
theorem test_exec_20 : after (exec (.cmd20To3F 0 fields3) (stateAt .decode [])) (·.seq) = some .clear := by decide
theorem test_exec_40 : after (exec (.cmd40To7F 0 fields3) (stateAt .decode [])) (·.seq) = some .clear := by decide
theorem test_exec_80 : after (exec (.cmd80ToFF 0 fields3) (stateAt .decode [])) (·.seq) = some .clear := by decide
/-- L2.FPE.2: FF C0 becomes FF CD, and ENTRY_T is 0x0100. -/
theorem test_exec_rjmp :
    after (exec (.rjmp 0x0FF) (engineAt .intercept 0 [])) (fun t => (t.entryT, t.fpe.pbuf[0], t.fpe.pbuf[1], t.fpe.state)) =
      some (0x0100, 0xFF, 0xCD, .erase) := by decide
/-- L2.FPE.4: a jump to the entry gives ENTRY_T = 0x0E00. -/
theorem test_exec_entry_jump :
    after (exec .entryJumpWord (engineAt .intercept 0 [])) (fun t => (t.entryT, t.fpe.pbuf[0], t.fpe.pbuf[1])) =
      some (0x0E00, 0xFF, 0xCD) := by decide

/-- A table row placed with `withFetchWord` runs at the next step. -/
theorem test_fetch_run : after (step (State.reset.withFetchWord 8 0x03)) (·.seq) = some .exitP := by decide
theorem test_fetch_rjmp : after (step (State.reset.withFetchWord 16 0xC0FF)) (·.entryT) = some 0x0100 := by decide

/-! ## One tick each -/

/-- The reset state enters the block: its host word 0 jumps to the entry (R280, R286). -/
theorem test_reset_seq : resetSeq State.reset.params State.reset.flash = .bootStart := by decide
/-- L2.BSQ.7 to L2.BSQ.9: any other word 0 bypasses the block. -/
theorem test_reset_bypass :
    ([[(0, 0x0C), (1, 0x94)], [(1, 0xC0)], [(1, 0xFF)]].map fun m => resetSeq Params.example8k m) =
      [.bypassed, .bypassed, .bypassed] := by decide
/-- L2.MEM.7 and L2.MEM.6. -/
theorem test_entry_pointer :
    State.reset.entryP = 0xFFFF ∧ { State.reset with flash := [(0x1BFE, 0x00), (0x1BFF, 0x01)] }.entryP = 0x0100 := by decide
theorem test_boot_start :
    after (step (stateAt .bootStart [boot1])) (fun t => (t.seq, t.bsq.lref, t.ev)) =
      some (.bootPoll, true, [.statusOn]) := by decide
theorem test_fatal : after (step (stateAt .decode [q0])) (fun t => (t.seq, t.ev)) = some (.fatal, [.fatalBlink]) := by decide
theorem test_exit_np : after (step (stateAt .exitNp [q0])) (fun t => (t.entryT, t.ports.hoTarget, t.seq)) =
    some (0xFFFF, 0xFFFF, .halted) := by decide
/-- FlashRead's last address is the pointer's second byte, 0x1BFF, and fl_rddata is the byte there (R33, R62, R194). -/
theorem test_flash_read_port :
    after (step { stateAt .exitNp [q0] with flash := [(0x1BFE, 0x34), (0x1BFF, 0x12)] })
      (fun t => (t.ports.flRdaddr, t.flRddata, t.entryT)) = some (0x1BFF, 0x12, 0x1234) := by decide
/-- TMR is free-running: it counts after handoff too, mod 256 (R24, R121, R260). -/
theorem test_timer_runs_in_halted :
    after (step { stateAt .halted [q0] with tmr := 0xFF }) (fun t => (t.seq, t.tmr)) = some (.halted, 0) := by decide
theorem test_exit_p : after (step (stateAt .exitP [q0])) (fun t => (t.fpe.state, t.fpe.pb, t.fpe.mrgA, t.fpe.mrgLen)) =
    some (.enter, 0x1BC0, 0x1BFE, 2) := by decide
/-- L2.FPE.3: 0x940C on page 0 is no relative jump. -/
theorem test_no_interception :
    after (step { engineAt .intercept 0 [q0] with
        fpe := { (engineAt .intercept 0 []).fpe with pbuf := putWord0 (Vector.replicate 64 0) 0x940C } })
      (fun t => (t.entryT, t.fpe.pbuf[0], t.fpe.pbuf[1], t.fpe.state)) = some (0, 0x0C, 0x94, .erase) := by decide
/-- L2.FPE.8: a merge across a page end is refused. -/
theorem test_merge_refused : startMerge 0x1BFE [0, 0, 0, 0] State.reset = .refused .mergeRange := by rfl
/-- L2.RX: E16 with eight intervals of 8 ticks gives RX_S = 64 and RX_D = 6. -/
theorem test_calibration_end :
    after (step { receiverAt .cal [line1] with
        rx := { (receiverAt .cal []).rx with n := 15, s := 56 }, tmr := 7 })
      (fun t => (t.rx.s, t.rx.d, t.rx.state, t.tmr)) = some (64, 6, .markDelay, 0) := by decide

/-! ## Witnesses: states and operands that meet the hypotheses of each statement, clause by clause -/

theorem witness_DecodeEncodeRoundTrip :
    Instr.WellFormed Params.example8k (.cmd80ToFF 127 fields3) = true ∧ Instr.WellFormed Params.example8k (.rjmp 0xFFF) = true ∧
      Instr.WellFormed Params.example8k .entryJumpWord = true := by decide
theorem witness_EncodeDecodeRoundTrip :
    (∃ i, decode Params.example8k .frame (frameBytes 0xFF) = .ok i) ∧
      ∃ i, decode Params.example8k .hostWord [0xFF, 0xC0] = .ok i := ⟨⟨_, test_decode_FF⟩, ⟨_, test_decode_rjmp⟩⟩
theorem witness_OnlyRelativeJumpsAreHostInstructions :
    (0xC000#16).toNat / 4096 = 0xC ∧ (0xCFFF#16).toNat / 4096 = 0xC ∧ (0xBFFF#16).toNat / 4096 ≠ 0xC ∧
      (0xD000#16).toNat / 4096 ≠ 0xC := by decide
theorem witness_EntryJumpReachesTheEntry :
    ∃ p : Params, p.flashSize % 64 = 0 ∧ flashWords p ∣ 4096 ∧ p.blEntry % 2 = 0 ∧ p.blEntry < p.flashSize :=
  ⟨{ Params.example8k with blEntry := 8190 }, by decide⟩
theorem witness_NoEffectCommandsOnlyContinue :
    ∃ fr : FrameBuf, fr[0] ≠ 0x02 ∧ fr[0] ≠ 0x03 ∧ fr[0] ≠ 0x04 := ⟨Vector.replicate 71 0x05, by decide⟩
theorem witness_ProgramStartsOrIgnores :
    Params.example8k.blStart ≤ ((112#16).toNat * 64) % 65536 ∧ ((111#16).toNat * 64) % 65536 < Params.example8k.blStart ∧
      ((1024#16).toNat * 64) % 65536 < Params.example8k.blStart := by decide
theorem witness_RelativeJumpIsIntercepted : ParamsValid State.reset.params := by decide
theorem witness_EntryJumpIsInterceptedAsItself :
    ∃ s : State, ParamsValid s.params ∧ le16 s.fpe.pbuf[0] s.fpe.pbuf[1] = entryJumpWord s.params :=
  ⟨{ State.reset with fpe := { State.reset.fpe with pbuf := putWord0 (Vector.replicate 64 0) 0xCDFF } }, by decide⟩
theorem witness_DecodeStepRunsTheReceivedFrame :
    ∃ s : State, ParamsValid s.params ∧ s.now.event = .quiet ∧ s.seq = .decode ∧ s.rx.ok = true :=
  ⟨received 2 0 64 [q0], by decide⟩
theorem witness_InterceptStepRunsTheHostWord :
    (∃ (s : State) (i : Instr), ParamsValid s.params ∧ s.now.event = .quiet ∧ s.FpeCalled ∧ s.fpe.state = .intercept ∧
      s.fpe.pb = 0 ∧ decode s.params .hostWord [s.fpe.pbuf[0], s.fpe.pbuf[1]] = .ok i) ∧
    (∃ s : State, ParamsValid s.params ∧ s.now.event = .quiet ∧ s.FpeCalled ∧ s.fpe.state = .intercept ∧ s.fpe.pb ≠ 0) ∧
    ∃ s : State, ParamsValid s.params ∧ s.now.event = .quiet ∧ s.FpeCalled ∧ s.fpe.state = .intercept ∧
      isRjmp (le16 s.fpe.pbuf[0] s.fpe.pbuf[1]) = false :=
  ⟨⟨{ engineAt .intercept 0 [q0] with
        fpe := { (engineAt .intercept 0 []).fpe with pbuf := putWord0 (Vector.replicate 64 0) 0xC0FF } },
      .rjmp 0x0FF, by decide, by decide, by decide, by decide, by decide, by rfl⟩,
    ⟨engineAt .intercept 64 [q0], by decide⟩, ⟨engineAt .intercept 0 [q0], by decide⟩⟩

/-- The arrays of the reset state are canonical, with or without an operation on page 0. -/
theorem arraysOk_op (o : Option FlashOp) (e : Option EepromOp) (h : ∀ op, o = some op → op.pb = 0) :
    { State.reset with flashOp := o, eepromOp := e }.ArraysOk :=
  ⟨rfl, rfl, by
    cases o with
    | none => trivial
    | some op => simp [State.OpInFlash, h op rfl, State.reset, State.afterReset, Params.example8k]⟩

theorem witness_FlashControllerContract :
    ∃ (s : State) (op : FlashOp), s.ArraysOk ∧ s.flashOp = some op ∧ flashBusy.flBusy = true ∧ q0.flBusy = false :=
  ⟨_, .erase 0, arraysOk_op (some (.erase 0)) none (by simp [FlashOp.pb]), rfl, rfl, rfl⟩
theorem witness_EepromCollaboratorContract :
    ∃ s : State, s.ArraysOk ∧ s.eepromOp = some { addr := 65535, data := 1 } ∧ eepromBusy.eeBusy = true ∧ q0.eeBusy = false :=
  ⟨_, arraysOk_op none (some { addr := 65535, data := 1 }) (by simp), rfl, rfl, rfl⟩
theorem witness_BeginTickPassesTime : State.reset.flashOp = none ∧ State.reset.eepromOp = none := by decide
theorem witness_TimerIsTheReceiversAlone :
    ∀ q ∈ [Seq.clear, .halted, .fatal], (stateAt q [q0]).now.event = .quiet ∧ (stateAt q [q0]).seq ≠ .receive := by decide
theorem witness_HandedOverBlockHolds :
    ∀ q ∈ [Seq.halted, Seq.bypassed], ∀ e ∈ [q0, irqTick],
      ParamsValid (stateAt q [e]).params ∧
      ((stateAt q [e]).now.event = .quiet ∨ (stateAt q [e]).now.event = .interrupt) ∧
      ((stateAt q [e]).seq = .halted ∨ (stateAt q [e]).seq = .bypassed) ∧
      (stateAt q [e]).flashOp = none ∧ (stateAt q [e]).eepromOp = none := by decide
theorem witness_FatalIsLeftByResetOnly :
    ParamsValid (stateAt .fatal [q0]).params ∧ (stateAt .fatal [q0]).seq = .fatal ∧
      (stateAt .fatal [q0]).now.event ≠ .reset ∧ (stateAt .fatal [resetTick]).now.event = .reset := by decide
theorem witness_FailedReceptionRaisesFatal :
    ∃ s : State, ParamsValid s.params ∧ s.now.event = .quiet ∧ s.seq = .decode ∧ s.rx.ok = false :=
  ⟨stateAt .decode [q0], by decide⟩
theorem witness_ClearResetsTheCommandByte :
    ∃ s : State, ParamsValid s.params ∧ s.now.event = .quiet ∧ s.seq = .clear ∧ s.flashOp = none ∧ s.eepromOp = none :=
  ⟨stateAt .clear [q0], by decide⟩
theorem witness_ChecksumIsNeverRead : ∃ s : State, s.now.event = .quiet ∧ s.seq ≠ .receive :=
  ⟨received 2 0 64 [q0], by decide⟩

theorem witness_BootStartSamplesTheHoldLevel :
    ∃ s : State, ParamsValid s.params ∧ s.now.event = .quiet ∧ s.seq = .bootStart := ⟨stateAt .bootStart [q0], by decide⟩
/-- A change at the first poll, a poll below the threshold, and the poll past it. -/
theorem witness_BootPollTestsTheLineFirst :
    (∃ s : State, ParamsValid s.params ∧ s.now.event = .quiet ∧ s.seq = .bootPoll ∧ s.now.bootIn ≠ s.bsq.lref) ∧
    (∃ s : State, ParamsValid s.params ∧ s.now.event = .quiet ∧ s.seq = .bootPoll ∧ s.now.bootIn = s.bsq.lref ∧
      s.bsq.cnt + 1 = s.params.bootThreshold) ∧
    ∃ s : State, ParamsValid s.params ∧ s.now.event = .quiet ∧ s.seq = .bootPoll ∧ s.now.bootIn = s.bsq.lref ∧
      s.params.bootThreshold < s.bsq.cnt + 1 :=
  ⟨⟨stateAt .bootPoll [boot1], by decide⟩,
    ⟨{ stateAt .bootPoll [q0] with bsq := { lref := false, cnt := 2 } }, by decide⟩,
    ⟨{ stateAt .bootPoll [q0] with bsq := { lref := false, cnt := 3 } }, by decide⟩⟩
theorem witness_HeldLineFallsThrough :
    ∃ s : State, ParamsValid s.params ∧ s.seq = .bootStart ∧ s.flashOp = none ∧ s.eepromOp = none ∧
      s.inputs = boot1 :: [boot1, boot1, boot1, boot1] ++ [q0] ∧
      [boot1, boot1, boot1, boot1].length = s.params.bootThreshold + 1 ∧
      AllQuiet (boot1 :: [boot1, boot1, boot1, boot1]) ∧ BootHeld boot1.bootIn [boot1, boot1, boot1, boot1] :=
  ⟨stateAt .bootStart [boot1, boot1, boot1, boot1, boot1, q0], by decide⟩
/-- A change at the first poll (L2.BSQ.5) and at the one that would have reached the threshold (L2.BSQ.3). -/
theorem witness_BootLineChangeHandsOff :
    ∀ polls ∈ [[], [boot1, boot1, boot1]], ∃ s : State, ParamsValid s.params ∧ s.seq = .bootStart ∧ s.flashOp = none ∧
      s.eepromOp = none ∧ s.inputs = boot1 :: polls ++ q0 :: q0 :: [] ∧ polls.length ≤ s.params.bootThreshold ∧
      AllQuiet (boot1 :: polls ++ [q0, q0]) ∧ BootHeld boot1.bootIn polls ∧ q0.bootIn ≠ boot1.bootIn := by
  intro polls hp
  simp only [List.mem_cons, List.not_mem_nil, or_false] at hp
  rcases hp with rfl | rfl
  · exact ⟨stateAt .bootStart [boot1, q0, q0], by decide⟩
  · exact ⟨stateAt .bootStart [boot1, boot1, boot1, boot1, q0, q0], by decide⟩

theorem witness_ReceiveEntryTakesTheReference :
    ∃ s : State, ParamsValid s.params ∧ s.now.event = .quiet ∧ s.seq = .receive ∧ s.rx.entry = true :=
  ⟨{ stateAt .receive [line1] with rx := { State.reset.rx with entry := true } }, by decide⟩
theorem witness_EdgeWaitsLockThePhase :
    ∀ st ∈ [RxState.waitE0, RxState.cal, RxState.markEdge, RxState.dataEdge],
      ParamsValid (receiverAt st [q0]).params ∧ (receiverAt st [q0]).now.event = .quiet ∧
      (receiverAt st [line1]).now.event = .quiet ∧ (receiverAt st [q0]).seq = .receive ∧
      (receiverAt st [q0]).rx.entry = false ∧ (receiverAt st [q0]).rx.state = st ∧
      (receiverAt st [q0]).now.rxIn = (receiverAt st [q0]).rx.l ∧
      (receiverAt st [line1]).now.rxIn ≠ (receiverAt st [line1]).rx.l := by decide

/-- A calibrating receiver within its ranges. -/
def calibrating (n : BitVec 5) (sum : BitVec 11) : State :=
  { receiverAt .cal [line1] with rx := { (receiverAt .cal []).rx with n := n, s := sum } }

/-- The first interval, the last discarded one, the first summed one and the last, at the largest sum. -/
theorem witness_CalibrationMeasuresTheBitPeriod :
    ∀ c ∈ [(0#5, 0#11), (7, 0), (8, 0), (15, 1785)], ∃ s : State, ParamsValid s.params ∧ s.now.event = .quiet ∧
      s.ReceiverOk ∧ s.seq = .receive ∧ s.rx.entry = false ∧ s.rx.state = .cal ∧ s.now.rxIn ≠ s.rx.l ∧ s.rx.n = c.1 := by
  have ok : ∀ n sum, n.toNat < 16 → sum.toNat ≤ 255 * (n.toNat - 8) → (calibrating n sum).ReceiverOk := fun n sum h1 h2 =>
    ⟨fun _ _ _ => ⟨h1, h2⟩, fun _ _ _ h => absurd rfl h, fun _ _ h => by cases h <;> contradiction,
      fun h => by contradiction, fun h => by contradiction⟩
  intro c hc
  refine ⟨calibrating c.1 c.2, test_params_valid, rfl, ok _ _ ?_ ?_, rfl, rfl, rfl, Bool.noConfusion, rfl⟩ <;>
    (simp only [List.mem_cons, List.not_mem_nil, or_false] at hc; rcases hc with rfl | rfl | rfl | rfl <;> decide)
/-- Before the sampling instant, at it with a change and without one. -/
theorem witness_MarkerIsTheFirstOneCell :
    ∀ c ∈ [(4#8, q0), (5, line1), (5, q0)], ∃ s : State, ParamsValid s.params ∧ s.now.event = .quiet ∧ s.seq = .receive ∧
      s.rx.entry = false ∧ s.rx.state = .markDelay ∧ s.rx.d = 6 ∧ s.tmr = c.1 ∧ s.now = c.2 ∧
      ((s.tmr.toNat + 1) % 256 < s.rx.d.toNat ∨ s.rx.d.toNat ≤ (s.tmr.toNat + 1) % 256) := by
  intro c hc
  refine ⟨{ receiverAt .markDelay [c.2] with rx := { (receiverAt .markDelay []).rx with d := 6 }, tmr := c.1 }, ?_⟩
  simp only [List.mem_cons, List.not_mem_nil, or_false] at hc
  rcases hc with rfl | rfl | rfl <;> decide
/-- The first bit, the last but one and the last, before and at the sampling instant. -/
theorem witness_DataBitIsSampledAndPacked :
    ∀ n ∈ [0#10, 566, 567], ∀ v ∈ [4#8, 5], ∃ s : State, ParamsValid s.params ∧ s.now.event = .quiet ∧ s.seq = .receive ∧
      s.rx.entry = false ∧ s.rx.state = .dataDelay ∧ s.rx.bitcnt.toNat < 568 ∧ s.rx.bitcnt = n ∧ s.tmr = v ∧
      ((s.tmr.toNat + 1) % 256 < s.rx.d.toNat ∨ s.rx.d.toNat ≤ (s.tmr.toNat + 1) % 256) := by
  intro n hn v hv
  refine ⟨{ receiverAt .dataDelay [line1] with rx := { (receiverAt .dataDelay []).rx with d := 6, bitcnt := n }, tmr := v }, ?_⟩
  simp only [List.mem_cons, List.not_mem_nil, or_false] at hn hv
  rcases hn with rfl | rfl | rfl <;> rcases hv with rfl | rfl <;> decide
theorem witness_ReceptionTouchesOnlyTheReceiver :
    ∃ s : State, ParamsValid s.params ∧ s.now.event = .quiet ∧ s.seq = .receive ∧ s.flashOp = none ∧ s.eepromOp = none :=
  ⟨receiverAt .cal [line1], by decide⟩
/-- A sampling delay of 2, and of 0, where the sample is the first tick after the boundary. -/
theorem witness_CellIsDecodedAtItsSampleTick :
    ∀ c ∈ [(2#8, [q0]), (0, [])], ∃ s : State, ParamsValid s.params ∧ s.seq = .receive ∧ s.rx.entry = false ∧
      s.rx.state = .dataEdge ∧ s.rx.bitcnt.toNat < 567 ∧ s.rx.d = c.1 ∧ s.inputs = line1 :: c.2 ++ q0 :: [] ∧
      AllQuiet (line1 :: c.2 ++ [q0]) ∧ line1.rxIn ≠ s.rx.l ∧ c.2.length + 1 = max s.rx.d.toNat 1 := by
  intro c hc
  refine ⟨{ receiverAt .dataEdge (line1 :: c.2 ++ [q0]) with
    rx := { (receiverAt .dataEdge []).rx with d := c.1, bitcnt := 566 } }, ?_⟩
  simp only [List.mem_cons, List.not_mem_nil, or_false] at hc
  rcases hc with rfl | rfl <;> decide
theorem witness_ComplementedLineDecodesAlike :
    ∃ s : State, s.inputs ≠ [] ∧ s.now.event = .quiet ∧ s.seq = .receive := ⟨receiverAt .cal [line1], by decide⟩
/-- The shortest and the longest period of R140, each with its shortest envelope. -/
theorem witness_SelfCalibration (fr : FrameBuf) :
    ∀ p ∈ [2, 255], ∃ (s : State) (es : List Inputs), ParamsValid s.params ∧ 2 ≤ p ∧ p ≤ 255 ∧ s.seq = .receive ∧
      s.rx.entry = true ∧ s.inputs = es ++ [] ∧ AllQuiet es ∧ (es.map fun e => e.rxIn) = envelope p 1 16 true fr := by
  intro p hp
  refine ⟨{ stateAt .receive ((envelope p 1 16 true fr).map fun b => { q0 with rxIn := b }) with
    rx := { State.reset.rx with entry := true } }, (envelope p 1 16 true fr).map fun b => { q0 with rxIn := b },
    test_params_valid, ?_, ?_, rfl, rfl, (List.append_nil _).symm, ?_, ?_⟩
  · simp only [List.mem_cons, List.not_mem_nil, or_false] at hp
    omega
  · simp only [List.mem_cons, List.not_mem_nil, or_false] at hp
    omega
  · intro e he
    obtain ⟨b, _, rfl⟩ := List.mem_map.1 he
    rfl
  · simp [Function.comp_def]

theorem witness_PageOperationMasksInterrupts :
    (∃ s : State, ParamsValid s.params ∧ s.now.event = .quiet ∧ s.FpeCalled ∧ s.fpe.state = .enter) ∧
    (∃ s : State, ParamsValid s.params ∧ s.now.event = .quiet ∧ s.seq = .program ∧ s.fpe.state = .done) ∧
    ∃ s : State, ParamsValid s.params ∧ s.now.event = .quiet ∧ s.seq = .exitP ∧ s.fpe.state = .done :=
  ⟨⟨engineAt .enter 0 [q0], by decide⟩, ⟨engineAt .done 0 [q0], by decide⟩,
    ⟨{ engineAt .done 0 [q0] with seq := .exitP }, by decide⟩⟩

/-- An engine on page 0 is on an application page. -/
theorem protected_engine (st : FpeState) (es : List Inputs) : (engineAt st 0 es).Protected :=
  ⟨fun _ => ⟨rfl, show 0 < 0x1C00 by decide⟩, fun _ h => by contradiction⟩

theorem witness_AssembleReadsThePageBack :
    ∃ s : State, ParamsValid s.params ∧ s.now.event = .quiet ∧ s.FpeCalled ∧ s.fpe.state = .assemble ∧ s.Protected ∧
      s.flashOp = none :=
  ⟨engineAt .assemble 0 [q0], by decide, rfl, .inl rfl, rfl, protected_engine _ _, rfl⟩
theorem witness_CommandsAreIssuedAndAwaited :
    ∀ st ∈ [FpeState.erase, .eraseWait, .write, .writeWait], ∃ s : State, ParamsValid s.params ∧ s.now.event = .quiet ∧
      s.FpeCalled ∧ s.Protected ∧ s.fpe.state = st :=
  fun st _ => ⟨engineAt st 0 [q0], test_params_valid, rfl, .inl rfl, protected_engine _ _, rfl⟩
theorem witness_BusyFlagHoldsTheBlock :
    (∀ st ∈ [FpeState.eraseWait, .writeWait], ∃ s : State, ParamsValid s.params ∧ s.inputs = [flashBusy, flashBusy] ++ [q0] ∧
      AllQuiet [flashBusy, flashBusy] ∧ s.FpeCalled ∧ s.fpe.state = st ∧ FlashBusy [flashBusy, flashBusy]) ∧
    ∃ s : State, ParamsValid s.params ∧ s.inputs = [eepromBusy, eepromBusy] ++ [q0] ∧ AllQuiet [eepromBusy, eepromBusy] ∧
      s.seq = .eeprom ∧ s.ee.state = .wait ∧ EepromBusy [eepromBusy, eepromBusy] :=
  ⟨fun st _ => ⟨engineAt st 0 [flashBusy, flashBusy, q0], test_params_valid, rfl, by decide, .inl rfl, rfl, by decide⟩,
    ⟨sequenceAt .wait 0 1 [eepromBusy, eepromBusy, q0], by decide⟩⟩
/-- The last byte of a page with one more, 65 bytes, one byte past the flash, and ranges that end with their page, the
flash, or are empty. -/
theorem witness_MergeRefusesACrossingRange :
    (∀ c ∈ [(0x1BFE#16, [0#8, 0, 0, 0]), (63, [0, 0])],
      c.2.length ≠ 0 ∧ c.1.toNat / 64 ≠ (c.1.toNat + c.2.length - 1) / 64) ∧
    64 < (List.replicate 65 0#8).length ∧ State.reset.params.flashSize < (8192#16).toNat + [0#8].length ∧
    ∀ c ∈ [(0x1BFE#16, [0#8, 0]), (8191, [0]), (8191, [])], c.2.length ≤ 64 ∧
      c.1.toNat + c.2.length ≤ State.reset.params.flashSize ∧
      (c.2.length = 0 ∨ c.1.toNat / 64 = (c.1.toNat + c.2.length - 1) / 64) := by decide

/-- One flash command: issue, two busy ticks, free. -/
def command : List Inputs := [q0, flashBusy, flashBusy, q0]
theorem command_ticks : CommandTicks command := ⟨⟨q0, [flashBusy, flashBusy], q0, rfl, by decide, rfl⟩⟩
/-- The shortest flash command. -/
theorem shortest_command_ticks : CommandTicks [q0, q0] := ⟨⟨q0, [], q0, rfl, by decide, rfl⟩⟩
/-- One EEPROM byte: NEXT, a busy WAIT tick, WAIT, ISSUE. -/
def byteTicks : List Inputs := [q0, eepromBusy, q0, q0]
theorem byte_ticks : ByteTicks byteTicks := ⟨⟨q0, [eepromBusy], q0, q0, rfl, by decide, rfl⟩⟩

theorem received_arraysOk (cmd page len : Byte) (es : List Inputs) : (received cmd page len es).ArraysOk := ⟨rfl, rfl, trivial⟩

/-- Page 0 with a payload that starts with FF C0, the branch of the interception. -/
theorem witness_ProgramWritesThePage_intercepted :
    ∃ (f : Fields) (s : State), ParamsValid s.params ∧ s.ArraysOk ∧ s.flashOp = none ∧ s.eepromOp = none ∧
      s.seq = .decode ∧ s.rx.ok = true ∧ decodeFrame s.frame = .cmdProgram f ∧
      (pageOperand f).toNat < s.params.blStart ∧ pageOperand f = 0 ∧
      isRjmp (le16 f.payload[0] f.payload[1]) = true ∧
      s.inputs = [q0, q0, q0] ++ command ++ [q0, q0] ++ [q0] ++ [] ∧ CommandTicks command ∧ CommandTicks [q0, q0] ∧
      AllQuiet ([q0, q0, q0] ++ command ++ [q0, q0] ++ [q0]) := by
  let fr : FrameBuf := ((received 2 0 64 []).frame.set 7 0xFF).set 8 0xC0
  exact ⟨decodeFields fr, { received 2 0 64 ([q0, q0, q0] ++ command ++ [q0, q0] ++ [q0]) with frame := fr },
    test_params_valid, ⟨rfl, rfl, trivial⟩, rfl, rfl, rfl, rfl, rfl, by decide, by decide, by decide, rfl, command_ticks,
    shortest_command_ticks, by decide⟩

/-- Page 0 with word 0x0000, which is not intercepted, and the last page below BOOTLOADER_START. -/
theorem witness_ProgramWritesThePage :
    ∀ page ∈ [0#8, 111], ∃ (f : Fields) (s : State), ParamsValid s.params ∧ s.ArraysOk ∧ s.flashOp = none ∧
      s.eepromOp = none ∧ s.seq = .decode ∧ s.rx.ok = true ∧ decodeFrame s.frame = .cmdProgram f ∧
      (pageOperand f).toNat < s.params.blStart ∧ (pageOperand f).toNat = 64 * page.toNat ∧
      s.inputs = [q0, q0, q0] ++ command ++ [q0, q0] ++ [q0] ++ [] ∧ CommandTicks command ∧ CommandTicks [q0, q0] ∧
      AllQuiet ([q0, q0, q0] ++ command ++ [q0, q0] ++ [q0]) := by
  intro page hp
  refine ⟨decodeFields (received 2 page 64 []).frame,
    received 2 page 64 ([q0, q0, q0] ++ command ++ [q0, q0] ++ [q0]), test_params_valid, received_arraysOk _ _ _ _, rfl, rfl, rfl,
    rfl, ?_, ?_, ?_, rfl, command_ticks, shortest_command_ticks, by decide⟩ <;>
    (simp only [List.mem_cons, List.not_mem_nil, or_false] at hp; rcases hp with rfl | rfl <;> first | rfl | decide)
theorem witness_RunPersistsAndHandsOff :
    ∃ (f : Fields) (s : State), ParamsValid s.params ∧ s.ArraysOk ∧ s.flashOp = none ∧ s.eepromOp = none ∧
      s.seq = .decode ∧ s.rx.ok = true ∧ s.fpe.state = .idle ∧ decodeFrame s.frame = .cmdRun f ∧
      s.inputs = [q0, q0, q0, q0, q0] ++ command ++ [q0, q0] ++ [q0] ++ [] ∧ CommandTicks command ∧
      CommandTicks [q0, q0] ∧ AllQuiet ([q0, q0, q0, q0, q0] ++ command ++ [q0, q0] ++ [q0]) :=
  ⟨decodeFields (received 3 0 0 []).frame, received 3 0 0 ([q0, q0, q0, q0, q0] ++ command ++ [q0, q0] ++ [q0]), by decide,
    received_arraysOk _ _ _ _, rfl, rfl, rfl, rfl, rfl, rfl, rfl, command_ticks, shortest_command_ticks, by decide⟩

theorem witness_ExitWithoutPersistHandsOff :
    ∃ s : State, ParamsValid s.params ∧ s.now.event = .quiet ∧ s.seq = .exitNp ∧ s.flashOp = none :=
  ⟨stateAt .exitNp [q0], by decide⟩
/-- The end of the sequence, a byte to go, the wait, and the issue of the last payload byte and of the first past it. -/
theorem witness_EepromSequenceTicks :
    ∀ c ∈ [(EeState.next, 2#16, 2#16), (.next, 1, 2), (.wait, 1, 2), (.issue, 63, 65), (.issue, 64, 65)],
      ParamsValid (sequenceAt c.1 c.2.1 c.2.2 [q0]).params ∧ (sequenceAt c.1 c.2.1 c.2.2 [q0]).now.event = .quiet ∧
      (sequenceAt c.1 c.2.1 c.2.2 [q0]).seq = .eeprom ∧ (sequenceAt c.1 c.2.1 c.2.2 [q0]).ee.state = c.1 ∧
      (sequenceAt c.1 c.2.1 c.2.2 [q0]).ee.i = c.2.1 ∧ (sequenceAt c.1 c.2.1 c.2.2 [q0]).ee.len = c.2.2 := by decide
/-- Two bytes, and none. -/
theorem witness_WriteEepromWritesAndHandsOff :
    ∀ c ∈ [(2#8, [byteTicks, byteTicks]), (0, [])], ∃ (f : Fields) (s : State), ParamsValid s.params ∧ s.ArraysOk ∧
      s.flashOp = none ∧ s.eepromOp = none ∧ s.seq = .decode ∧ s.rx.ok = true ∧ decodeFrame s.frame = .cmdWriteEeprom f ∧
      c.2.length = f.length.toNat ∧ (∀ b ∈ c.2, ByteTicks b) ∧ s.inputs = q0 :: c.2.flatten ++ [q0, q0, q0] ++ [] ∧
      AllQuiet (q0 :: c.2.flatten ++ [q0, q0, q0]) ∧ q0.eeBusy = false := by
  intro c hc
  refine ⟨decodeFields (received 4 0 c.1 []).frame, received 4 0 c.1 (q0 :: c.2.flatten ++ [q0, q0, q0]), test_params_valid,
    received_arraysOk _ _ _ _, rfl, rfl, rfl, rfl, ?_, ?_, ?_, (List.append_nil _).symm, ?_, rfl⟩ <;>
    (simp only [List.mem_cons, List.not_mem_nil, or_false] at hc; rcases hc with rfl | rfl)
  · rfl
  · rfl
  · decide
  · decide
  · intro b hb
    simp only [List.mem_cons, List.not_mem_nil, or_false, or_self] at hb
    exact hb ▸ byte_ticks
  · simp
  · decide
  · decide

theorem witness_ResetWinsAtAnyTick :
    ∃ s : State, ParamsValid s.params ∧ s.now.event = .reset ∧ s.flashOp = none ∧ s.eepromOp = none ∧
      le16 (s.flashByte 0) (s.flashByte 1) = entryJumpWord s.params := ⟨stateAt .receive [resetTick], by decide⟩
theorem witness_ResetSparesSettledBytes :
    ∃ s : State, ParamsValid s.params ∧ s.ArraysOk ∧ s.now.event = .reset ∧ s.flashOp = some (.erase 0) ∧
      s.eepromOp = some { addr := 65535, data := 1 } := by
  have h := arraysOk_op (some (.erase 0)) (some { addr := 65535, data := 1 }) (by simp [FlashOp.pb])
  exact ⟨{ State.reset with flashOp := some (.erase 0), eepromOp := some { addr := 65535, data := 1 }, inputs := [resetTick] },
    by decide, ⟨h.flash, h.eeprom, h.op⟩, rfl, rfl, rfl⟩
theorem witness_EntryByAnotherRouteIsAReset :
    ∀ q ∈ [Seq.halted, Seq.bypassed], ParamsValid (stateAt q [{ q0 with event := .entry }]).params ∧
      (stateAt q [{ q0 with event := .entry }]).now.event = .entry ∧
      ((stateAt q [{ q0 with event := .entry }]).seq = .halted ∨ (stateAt q [{ q0 with event := .entry }]).seq = .bypassed) := by
  decide
theorem witness_RefusalsOfTheStep :
    (∃ s : State, ¬ParamsValid s.params) ∧
    (∃ s : State, ParamsValid s.params ∧ s.now.event = .interrupt ∧ s.gie = true ∧ s.seq.terminal = false) ∧
    ∃ s : State, ParamsValid s.params ∧ s.now.event = .interrupt ∧ s.gie = false :=
  ⟨⟨{ State.reset with params := { Params.example8k with flashSize := 8191 } }, by decide⟩,
    ⟨{ stateAt .receive [irqTick] with gie := true }, by decide⟩, ⟨stateAt .receive [irqTick], by decide⟩⟩

/-- A quiet first tick after reset. -/
def first : State := stateAt .bootStart [q0]

theorem first_steps : ∃ t, step first = .next t := ⟨_, rfl⟩
theorem witness_ArraysStayCanonical : ∃ s t : State, s.ArraysOk ∧ step s = .next t :=
  ⟨first, first_steps.choose, ⟨rfl, rfl, trivial⟩, first_steps.choose_spec⟩
theorem witness_BootloaderRegionIsNeverWritten : ∃ s t : State, s.ArraysOk ∧ s.Protected ∧ step s = .next t :=
  ⟨first, first_steps.choose, ⟨rfl, rfl, trivial⟩, ⟨fun h => absurd rfl h, fun _ h => by contradiction⟩,
    first_steps.choose_spec⟩
theorem witness_EnginesStayDisciplined : ∃ s t : State, s.EnginesOk ∧ step s = .next t :=
  ⟨first, first_steps.choose,
    ⟨fun h => absurd rfl h, fun h => by contradiction, fun h => by contradiction, fun h => by contradiction,
      fun _ _ => rfl, fun h => absurd rfl h, fun h => by contradiction⟩, first_steps.choose_spec⟩
theorem first_receiverOk : first.ReceiverOk :=
  ⟨fun h => by contradiction, fun h => by contradiction, fun h => by contradiction, fun h => by contradiction,
    fun h => by contradiction⟩
theorem witness_ReceiverStaysInRange : ∃ s t : State, s.ReceiverOk ∧ step s = .next t :=
  ⟨first, first_steps.choose, first_receiverOk, first_steps.choose_spec⟩
theorem witness_CountersStayInRange : ∃ s t : State, s.CountersOk ∧ step s = .next t :=
  ⟨first, first_steps.choose, ⟨fun h => by contradiction, fun h => by contradiction, fun h => by contradiction⟩,
    first_steps.choose_spec⟩
theorem witness_HandoffPortMarksHalted : ∃ s t : State, s.HandoffOk ∧ step s = .next t :=
  ⟨first, first_steps.choose, by decide, first_steps.choose_spec⟩
theorem witness_OnlyAnInterruptStopsTheBlock : ∃ s : State, ParamsValid s.params ∧ s.Protected ∧ s.ReceiverOk :=
  ⟨first, by decide, ⟨fun h => absurd rfl h, fun _ h => by contradiction⟩, first_receiverOk⟩

end Sys2Proof.Tests
end

section
/-! SUPPORT. The encoding family: the command byte selects one row of the opcode table (R96, R97, R101), and the top four
bits of a host word decide whether it is an instruction (R106). -/

namespace Sys2Proof

open Machine

/-! ## The rows of the frame commands -/

theorem CmdRow.selects_iff {r : CmdRow} {c : Byte} : r.selects c = true ↔ c &&& r.mask = r.pattern := beq_iff_eq

/-- Two different rows disagree on a bit that both of them fix. -/
theorem eq_of_agree_on_common_mask : ∀ r ∈ cmdRows, ∀ r' ∈ cmdRows,
    r.pattern &&& r'.mask = r'.pattern &&& r.mask → r = r' := by decide

theorem cmdRow_unique {r r' : CmdRow} {c : Byte} (hr : r ∈ cmdRows) (hr' : r' ∈ cmdRows)
    (h : r.selects c = true) (h' : r'.selects c = true) : r = r' := by
  rw [CmdRow.selects_iff] at h h'
  refine eq_of_agree_on_common_mask r hr r' hr' ?_
  calc r.pattern &&& r'.mask = c &&& r.mask &&& r'.mask := by rw [h]
    _ = c &&& r'.mask &&& r.mask := by rw [BitVec.and_assoc, BitVec.and_assoc, BitVec.and_comm r.mask]
    _ = r'.pattern &&& r.mask := by rw [h']

/-- Of the bytes above 0x05, those that no other row selects are 0x06 and 0x07 (R97, R101: no byte is without a row). -/
theorem and_FE_of_no_other_row : ∀ c : Byte, 0x05 < c → c &&& 0xF8 ≠ 0x08 → c &&& 0xF0 ≠ 0x10 → c &&& 0xE0 ≠ 0x20 →
    c &&& 0xC0 ≠ 0x40 → c &&& 0x80 ≠ 0x80 → c &&& 0xFE = 0x06 := by decide

/-- The instruction belongs to a row of the table that selects the command byte c. -/
def Instr.RowSelects (i : Instr) (c : Byte) : Prop := ∃ r ∈ cmdRows, i.cmdRow = some r ∧ r.selects c = true

theorem Instr.RowSelects.of_cmdRow {i : Instr} {r : CmdRow} {c : Byte} (hrow : i.cmdRow = some r) (hr : r ∈ cmdRows)
    (hc : c &&& r.mask = r.pattern) : i.RowSelects c :=
  ⟨r, hr, hrow, CmdRow.selects_iff.mpr hc⟩

/-- A test of the decoder: each branch has to answer for its own bytes only. -/
theorem Instr.RowSelects.ite {P : Prop} [Decidable P] {i j : Instr} {c : Byte} (hi : P → i.RowSelects c)
    (hj : ¬P → j.RowSelects c) : Instr.RowSelects (if P then i else j) c :=
  iteInduction (motive := fun i => Instr.RowSelects i c) hi hj

/-- The decoder answers an instruction of a row that selects the command byte (R96, R101). -/
theorem decodeCmd_rowSelects (c : Byte) (f : Fields) : (decodeCmd c f).RowSelects c := by
  unfold decodeCmd
  refine .ite (fun h => .of_cmdRow rfl (by decide) (by rw [h]; rfl)) fun h0 => ?_
  refine .ite (fun h => .of_cmdRow rfl (by decide) (by rw [h]; rfl)) fun h1 => ?_
  refine .ite (fun h => .of_cmdRow rfl (by decide) (by rw [h]; rfl)) fun h2 => ?_
  refine .ite (fun h => .of_cmdRow rfl (by decide) (by rw [h]; rfl)) fun h3 => ?_
  refine .ite (fun h => .of_cmdRow rfl (by decide) (by rw [h]; rfl)) fun h4 => ?_
  refine .ite (fun h => .of_cmdRow rfl (by decide) (by rw [h]; rfl)) fun h5 => ?_
  refine .ite (fun h => .of_cmdRow rfl (by decide) h) fun h8 => ?_
  refine .ite (fun h => .of_cmdRow rfl (by decide) h) fun h10 => ?_
  refine .ite (fun h => .of_cmdRow rfl (by decide) h) fun h20 => ?_
  refine .ite (fun h => .of_cmdRow rfl (by decide) h) fun h40 => ?_
  refine .ite (fun h => .of_cmdRow rfl (by decide) h) fun h80 => ?_
  have h05 : 0x05 < c := by bv_omega
  exact .of_cmdRow rfl (by decide) (and_FE_of_no_other_row c h05 h8 h10 h20 h40 h80)

/-- Whatever the command byte, the instruction carries the frame's fields (R95). -/
@[simp] theorem decodeCmd_fields (c : Byte) (f : Fields) : (decodeCmd c f).fields = some f := by
  rw [decodeCmd]
  simp only [apply_ite Instr.fields]
  simp only [Instr.fields, ite_self]

/-- Settles O3: the decoded instruction's row selects the command byte, and no two rows select one byte. -/
theorem everyFrameSelectsOneRow : Obligations.EveryFrameSelectsOneRow := by
  intro fr
  obtain ⟨r, hr, hrow, hsel⟩ := decodeCmd_rowSelects fr[0] (decodeFields fr)
  refine ⟨r, hr, hrow, decodeCmd_fields .., fun r' hr' => ⟨fun h => cmdRow_unique hr' hr h hsel, ?_⟩⟩
  rintro rfl
  exact hsel

/-! ## Host words -/

/-- Bits 15..12 of a word as a quotient (R106). -/
theorem isRjmp_iff {w : Word} : isRjmp w = true ↔ w.toNat / 4096 = 0xC := by
  have hw : w.toNat / 4096 < 16 := by omega
  rw [isRjmp, beq_iff_eq, ← BitVec.toNat_inj, BitVec.extractLsb'_toNat, Nat.shiftRight_eq_div_pow]
  exact (Nat.mod_eq_of_lt hw).congr_left

/-- Every relative jump is a host instruction, ENTRY_JUMP_WORD under its own name (R106, R108). -/
theorem decodeHostWord_of_isRjmp (p : Params) {w : Word} (h : isRjmp w = true) : ∃ i, decodeHostWord p w = .ok i := by
  by_cases hw : w = entryJumpWord p
  · exact ⟨_, if_pos hw⟩
  · exact ⟨_, (if_neg hw).trans (if_pos h)⟩

/-- Settles O5: the quotient is the decoder's own test, and ENTRY_JUMP_WORD passes it. -/
theorem onlyRelativeJumpsAreHostInstructions : Obligations.OnlyRelativeJumpsAreHostInstructions := by
  intro p w
  rw [Ne, ← isRjmp_iff]
  exact ⟨decodeHostWord_of_isRjmp p, fun h => decodeHostWord_error (Bool.eq_false_iff.mpr h)⟩

end Sys2Proof
end

section
/-! SUPPORT. The receiver family: what one tick of RX is in each state (R122 to R134), the bits of FRAME, the levels of a
cell around its sampling instant, and the reception of a whole envelope, told from the line levels still to come (R140). -/

namespace Sys2Proof.Machine

/-! ## One tick of RX -/

/-- A quiet tick in RECEIVE is RX's. -/
theorem step_receive {s : State} (hv : ParamsValid s.params) (hq : s.now.event = .quiet) (hs : s.seq = .receive) :
    step s = .next (rxTick s.now (s.beginTick s.now)) := by
  rw [step_active hv hq, activeRule_seq _ _ .receive (by simpa using hs)]

/-- A state in which RX moves on at an edge only (R123, R124, R128, R131). -/
def RxState.AwaitsEdge (q : RxState) : Prop := q = .waitE0 ∨ q = .cal ∨ q = .markEdge ∨ q = .dataEdge

/-- A state in which RX moves on at the sampling instant only (R126, R127, R132). -/
def RxState.AwaitsSample (q : RxState) : Prop := q = .markDelay ∨ q = .dataDelay

section
variable {e : Inputs} {s : State}

theorem edge_iff : s.edge e = true ↔ e.rxIn ≠ s.rx.l := bne_iff_ne

theorem sampleDue_iff : sampleDue s = true ↔ s.rx.d ≤ s.tmr := decide_eq_true_iff

theorem rxTick_entry (h : s.rx.entry = true) : rxTick e s = rxEntry e s := if_pos h

/-- Past the entry the rule is chosen by RX_STATE. -/
theorem rxTick_state (h : s.rx.entry = false) : ∀ q, s.rx.state = q →
    rxTick e s =
      match q with
      | .waitE0 => rxWaitE0 e s
      | .cal => rxCal e s
      | .markDelay => rxMarkDelay e s
      | .markEdge => rxMarkEdge e s
      | .dataEdge => rxDataEdge e s
      | .dataDelay => rxDataDelay e s := by
  rintro _ rfl
  exact if_neg (by simp [h])

/-- Without an edge the waits for one hold. -/
theorem rxTick_no_edge (h : s.rx.entry = false) (hst : s.rx.state.AwaitsEdge) (hl : e.rxIn = s.rx.l) :
    rxTick e s = s := by
  have hedge : ¬s.edge e = true := fun hne => edge_iff.mp hne hl
  obtain hst | hst | hst | hst := hst <;> rw [rxTick_state h _ hst]
  · exact if_neg hedge
  · exact if_neg hedge
  · exact if_neg hedge
  · exact if_neg hedge

/-- Before the sampling instant nothing is looked at (R126). -/
theorem rxTick_before_sample (h : s.rx.entry = false) (hst : s.rx.state.AwaitsSample) (hd : s.tmr < s.rx.d) :
    rxTick e s = s := by
  have hdue : ¬sampleDue s = true := fun hle => (BitVec.not_le.mpr hd) (sampleDue_iff.mp hle)
  obtain hst | hst := hst <;> rw [rxTick_state h _ hst]
  · exact if_neg hdue
  · exact if_neg hdue

/-- E0 starts the calibration (R123). -/
theorem rxTick_waitE0_edge (h : s.rx.entry = false) (hst : s.rx.state = .waitE0) (hl : e.rxIn ≠ s.rx.l) :
    rxTick e s = { s with rx := { s.rx with l := e.rxIn, n := 0, s := 0, state := .cal }, tmr := 0 } := by
  rw [rxTick_state h _ hst]
  exact if_pos (edge_iff.mpr hl)

/-- E1 to E15: one more interval is counted (R124). -/
theorem rxTick_cal_edge (h : s.rx.entry = false) (hst : s.rx.state = .cal) (hl : e.rxIn ≠ s.rx.l)
    (hn : s.rx.n + 1 ≠ 16) :
    rxTick e s = { s with rx := { s.rx with l := e.rxIn, n := s.rx.n + 1, s := intervalSum s }, tmr := 0 } := by
  rw [rxTick_state h _ hst]
  refine (if_pos (edge_iff.mpr hl)).trans ?_
  simp only [if_neg hn]

/-- E16: the last interval gives the sampling delay (R125). -/
theorem rxTick_cal_last_edge (h : s.rx.entry = false) (hst : s.rx.state = .cal) (hl : e.rxIn ≠ s.rx.l)
    (hn : s.rx.n + 1 = 16) :
    rxTick e s =
      { s with
        rx := { s.rx with
          l := e.rxIn, n := 16, s := intervalSum s, d := samplingDelay (intervalSum s), state := .markDelay }
        tmr := 0 } := by
  rw [rxTick_state h _ hst]
  refine (if_pos (edge_iff.mpr hl)).trans ?_
  simp only [hn, if_true]

/-- The next boundary of the marker search (R128). -/
theorem rxTick_markEdge_edge (h : s.rx.entry = false) (hst : s.rx.state = .markEdge) (hl : e.rxIn ≠ s.rx.l) :
    rxTick e s = { s with rx := { s.rx with l := e.rxIn, state := .markDelay }, tmr := 0 } := by
  rw [rxTick_state h _ hst]
  exact if_pos (edge_iff.mpr hl)

/-- The boundary of a data cell (R131). -/
theorem rxTick_dataEdge_edge (h : s.rx.entry = false) (hst : s.rx.state = .dataEdge) (hl : e.rxIn ≠ s.rx.l) :
    rxTick e s = { s with rx := { s.rx with l := e.rxIn, state := .dataDelay }, tmr := 0 } := by
  rw [rxTick_state h _ hst]
  exact if_pos (edge_iff.mpr hl)

/-- A cell without a mid-cell transition is one more training cell (R127). -/
theorem rxTick_training_sample (h : s.rx.entry = false) (hst : s.rx.state = .markDelay) (hd : s.rx.d ≤ s.tmr)
    (hl : e.rxIn = s.rx.l) : rxTick e s = { s with rx := { s.rx with state := .markEdge } } := by
  rw [rxTick_state h _ hst]
  exact (if_pos (sampleDue_iff.mpr hd)).trans (if_neg fun hne => edge_iff.mp hne hl)

/-- A cell with a mid-cell transition is the start marker (R127, R130). -/
theorem rxTick_marker_sample (h : s.rx.entry = false) (hst : s.rx.state = .markDelay) (hd : s.rx.d ≤ s.tmr)
    (hl : e.rxIn ≠ s.rx.l) :
    rxTick e s = { s with rx := { s.rx with l := e.rxIn, bitcnt := 0, state := .dataEdge } } := by
  rw [rxTick_state h _ hst]
  exact (if_pos (sampleDue_iff.mpr hd)).trans (if_pos (edge_iff.mpr hl))

/-- A data bit that is not the last one (R132, R133). -/
theorem rxTick_data_sample (h : s.rx.entry = false) (hst : s.rx.state = .dataDelay) (hd : s.rx.d ≤ s.tmr)
    (hi : s.rx.bitcnt.toNat + 1 ≠ 568) :
    rxTick e s =
      { s with
        frame := putDataBit s.frame s.rx.bitcnt.toNat (s.edge e)
        rx := { s.rx with l := e.rxIn, bitcnt := s.rx.bitcnt + 1, state := .dataEdge } } := by
  rw [rxTick_state h _ hst]
  exact (if_pos (sampleDue_iff.mpr hd)).trans (if_neg hi)

/-- The last data bit ends the reception (R134). -/
theorem rxTick_last_data_sample (h : s.rx.entry = false) (hst : s.rx.state = .dataDelay) (hd : s.rx.d ≤ s.tmr)
    (hi : s.rx.bitcnt.toNat + 1 = 568) :
    rxTick e s = rxFinish
      { s with
        frame := putDataBit s.frame s.rx.bitcnt.toNat (s.edge e)
        rx := { s.rx with l := e.rxIn, bitcnt := s.rx.bitcnt + 1 } } := by
  rw [rxTick_state h _ hst]
  exact (if_pos (sampleDue_iff.mpr hd)).trans (if_pos hi)

end

/-- Settles O29: at its first tick RX runs its entry rule, which does not ask for an edge. -/
theorem receiveEntryTakesTheReference : Obligations.ReceiveEntryTakesTheReference := by
  intro s hv hq hs hentry
  rw [step_receive hv hq hs, rxTick_entry (by simpa using hentry), rxEntry, beginTick_rx]

/-- Settles O30: the wait holds without an edge, and each of the three rules takes one. -/
theorem edgeWaitsLockThePhase : Obligations.EdgeWaitsLockThePhase := by
  intro s hv hq hs hentry
  rw [← beginTick_rx s s.now] at hentry ⊢
  rw [step_receive hv hq hs]
  refine ⟨fun hst hl => ?_, fun hl => ⟨fun hst => ?_, fun hst => ?_, fun hst => ?_⟩⟩
  · rw [rxTick_no_edge hentry hst hl]
  · rw [rxTick_waitE0_edge hentry hst hl]
  · rw [rxTick_markEdge_edge hentry hst hl]
  · rw [rxTick_dataEdge_edge hentry hst hl]

/-! ## The bits of FRAME -/

theorem getLsbD_setBit (v : Byte) (b : Bool) {i j : Nat} (hj : j < 8) :
    (setBit v i b).getLsbD j = if j = i then b else v.getLsbD j := by
  have hbit : (1#8 <<< i).getLsbD j = decide (j = i) := by
    rw [← BitVec.twoPow_eq, BitVec.getLsbD_twoPow]
    grind
  cases b
  · simp only [setBit, Bool.false_eq_true, if_false, BitVec.getLsbD_and, BitVec.getLsbD_not, hbit]
    grind
  · simp only [setBit, if_true, BitVec.getLsbD_or, hbit]
    grind

theorem dataBit_eq (fr : FrameBuf) {i : Nat} (hi : i < 568) :
    dataBit fr i = (fr[i / 8]'(by omega)).getLsbD (7 - i % 8) := by
  have h : i / 8 < 71 := by omega
  simp [dataBit, h]

theorem putDataBit_eq (f : FrameBuf) (b : Bool) {i : Nat} (hi : i / 8 < 71) :
    putDataBit f i b = f.set (i / 8) (setBit f[i / 8] (7 - i % 8) b) := by
  grind [putDataBit]

/-- Writing data bit i changes no other bit of FRAME (R92, R133). -/
theorem dataBit_putDataBit (f : FrameBuf) (b : Bool) {i j : Nat} (hi : i < 568) (hj : j < 568) :
    dataBit (putDataBit f i b) j = if j = i then b else dataBit f j := by
  rw [dataBit_eq _ hj, dataBit_eq _ hj, putDataBit_eq f b (by omega), Vector.getElem_set]
  by_cases hbyte : i / 8 = j / 8
  · have hbit : 7 - j % 8 = 7 - i % 8 ↔ j = i := by omega
    rw [if_pos hbyte, getLsbD_setBit _ _ (by omega)]
    simp only [hbit, hbyte]
  · rw [if_neg hbyte, if_neg fun h : j = i => hbyte (h ▸ rfl)]

/-- Writing data bit i of fr extends the part of FRAME that agrees with fr by that bit. -/
theorem dataBit_putDataBit_agrees {f fr : FrameBuf} {i : Nat} (hi : i < 568)
    (hf : ∀ j < i, dataBit f j = dataBit fr j) : ∀ j < i + 1, dataBit (putDataBit f i (dataBit fr i)) j = dataBit fr j := by
  intro j hj
  rw [dataBit_putDataBit f _ hi (by omega)]
  split
  next h => rw [h]
  next h => exact hf j (by omega)

/-- The 568 data bits are all of FRAME (R92, R98). -/
theorem frame_eq_of_dataBit {f fr : FrameBuf} (h : ∀ j < 568, dataBit f j = dataBit fr j) : f = fr := by
  refine Vector.ext fun a ha => BitVec.eq_of_getLsbD_eq fun k hk => ?_
  have hj : 8 * a + (7 - k) < 568 := by omega
  have hbit := h _ hj
  rw [dataBit_eq _ hj, dataBit_eq _ hj] at hbit
  simpa only [show (8 * a + (7 - k)) / 8 = a by omega, show 7 - (8 * a + (7 - k)) % 8 = k by omega] using hbit

/-! ## The levels of a cell around its sampling instant -/

/-- RX_D at bit period p: floor(3 * 8p / 32) = floor(3p / 4) ticks after the boundary. -/
def sampleOffset (p : Nat) : Nat := 3 * p / 4

/-- The sampling instant is past the mid-cell transition and inside the cell (R136). -/
theorem sampleOffset_in_cell {p : Nat} (hp : 2 ≤ p) : p / 2 ≤ sampleOffset p ∧ 0 < sampleOffset p ∧ sampleOffset p < p := by
  unfold sampleOffset
  omega

/-- A 1 is a cell whose level at its end is not the one right after its boundary (R91). -/
theorem cellEnd_bne_boundary (l b : Bool) : (cellEnd l b != !l) = b := by
  cases b <;> simp [cellEnd]

/-- A cell starts with a transition, and from the sampling instant on the line has the level that the cell leaves. -/
theorem cellLevels_eq {p : Nat} (hp : 2 ≤ p) (l b : Bool) : ∃ between, between.length + 1 = sampleOffset p ∧
    cellLevels p (p / 2) l b = (!l) :: between ++ List.replicate (p - sampleOffset p) (cellEnd l b) := by
  obtain ⟨hmid, hpos, hlt⟩ := sampleOffset_in_cell hp
  cases b
  · refine ⟨List.replicate (sampleOffset p - 1) (!l), by simp; omega, ?_⟩
    simp only [cellLevels, cellEnd, Bool.false_eq_true, if_false, ← List.replicate_succ, List.replicate_append_replicate]
    congr 1
    omega
  · refine ⟨List.replicate (p / 2 - 1) (!l) ++ List.replicate (sampleOffset p - p / 2) l, by simp; omega, ?_⟩
    simp only [cellLevels, cellEnd, if_true, ← List.cons_append, ← List.replicate_succ, List.append_assoc,
      List.replicate_append_replicate]
    congr 2 <;> omega

/-- The line after the boundary tick of the first of some cells. -/
def afterBoundary (p : Nat) (l : Bool) (cells : List Bool) : List Bool := (cellsLevels p l cells).tail

theorem envelopeCells_ne_nil (n : Nat) (fr : FrameBuf) : envelopeCells n fr ≠ [] := by simp [envelopeCells]

theorem envelopeCells_succ (n : Nat) (fr : FrameBuf) : envelopeCells (n + 1) fr = false :: envelopeCells n fr := rfl

/-- A cell boundary is a transition (R91). -/
theorem cellsLevels_eq_boundary {p : Nat} (hp : 2 ≤ p) (l : Bool) {cells : List Bool} (h : cells ≠ []) :
    cellsLevels p l cells = (!l) :: afterBoundary p l cells := by
  cases cells with
  | nil => contradiction
  | cons b bs =>
    obtain ⟨between, -, hc⟩ := cellLevels_eq hp l b
    simp [afterBoundary, cellsLevels, hc]

theorem afterBoundary_cons {p : Nat} (hp : 2 ≤ p) (l b : Bool) (bs : List Bool) :
    ∃ between, between.length + 1 = sampleOffset p ∧ afterBoundary p l (b :: bs) =
      between ++ (List.replicate (p - sampleOffset p) (cellEnd l b) ++ cellsLevels p (cellEnd l b) bs) := by
  obtain ⟨between, hlen, hc⟩ := cellLevels_eq hp l b
  exact ⟨between, hlen, by simp [afterBoundary, cellsLevels, hc]⟩

/-- A training cell has no transition but its boundary. -/
theorem afterBoundary_training {p : Nat} (hp : 2 ≤ p) (l : Bool) (bs : List Bool) :
    afterBoundary p l (false :: bs) = List.replicate (p - 1) (!l) ++ cellsLevels p (!l) bs := by
  obtain ⟨q, rfl⟩ := Nat.exists_eq_add_of_le' (show 1 ≤ p by omega)
  simp [afterBoundary, cellsLevels, cellLevels, cellEnd, List.replicate_succ]

/-! ## What calibration measures on such a line -/

/-- The sum of the calibration intervals 9 to 16 after an interval of t ticks (R124). -/
def Rx.sumWith (r : Rx) (t : BitVec 8) : BitVec 11 := if 8 ≤ r.n.toNat then r.s + t.setWidth 11 else r.s

theorem intervalSum_eq (s : State) : intervalSum s = s.rx.sumWith s.tmr := rfl

theorem Rx.sumWith_toNat {r : Rx} {p : Nat} (hp : p ≤ 255) (hn : r.n.toNat ≤ 15) (hs : r.s.toNat = (r.n.toNat - 8) * p)
    {t : BitVec 8} (ht : t.toNat = p) : (r.sumWith t).toNat = (r.n.toNat + 1 - 8) * p := by
  unfold Rx.sumWith
  split
  next h =>
    have hsum : (r.n.toNat + 1 - 8) * p = (r.n.toNat - 8) * p + p := by
      rw [Nat.sub_add_comm h, Nat.succ_mul]
    have hle : (r.n.toNat - 8) * p ≤ 7 * 255 := Nat.mul_le_mul (by omega) hp
    rw [hsum, BitVec.toNat_add, BitVec.toNat_setWidth, hs, ht]
    omega
  next h => rw [hs, show r.n.toNat - 8 = 0 by omega, show r.n.toNat + 1 - 8 = 0 by omega]

/-- Eight intervals of p ticks give the delay of bit period p (R125). -/
theorem samplingDelay_toNat {p : Nat} {x : BitVec 11} (hx : x.toNat = 8 * p) :
    (samplingDelay x).toNat = sampleOffset p := by
  have hdiv : 3 * (8 * p) / 32 = 3 * p / 4 := by
    rw [Nat.mul_left_comm]
    exact Nat.mul_div_mul_left (3 * p) 4 (by decide)
  rw [samplingDelay, sampleOffset, BitVec.toNat_ofNat, hx, hdiv]
  omega

/-! ## What the line ahead makes of the receiver -/

/-- With the levels ls ahead on the line, a receiver with registers r, FRAME f and timer v reaches DECODE with RX_OK = 1
and fr in FRAME, within those levels. -/
def Receives (fr : FrameBuf) (r : Rx) (f : FrameBuf) (v : BitVec 8) (ls : List Bool) : Prop :=
  ∀ (s : State) (es rest : List Inputs), ParamsValid s.params → s.inputs = es ++ rest → AllQuiet es →
    es.map (fun e => e.rxIn) = ls → s.seq = .receive → s.rx = r → s.frame = f → s.tmr = v →
    ∃ k t, k ≤ es.length ∧ run k s = .next t ∧ t.seq = .decode ∧ t.rx.ok = true ∧ t.frame = fr

/-- The tick of a level b takes the receiver's registers from r, f, v to r', f', v'. -/
def RxMoves (b : Bool) (r : Rx) (f : FrameBuf) (v : BitVec 8) (r' : Rx) (f' : FrameBuf) (v' : BitVec 8) : Prop :=
  ∀ (e : Inputs) (s : State), e.rxIn = b → s.rx = r → s.frame = f → s.tmr = v + 1 →
    rxTick e s = { s with rx := r', frame := f', tmr := v' }

/-- The first tick of a line is a quiet tick of RX. -/
theorem step_rxIn {s : State} {e : Inputs} {es rest : List Inputs} (hv : ParamsValid s.params)
    (hin : s.inputs = e :: es ++ rest) (hq : AllQuiet (e :: es)) (hseq : s.seq = .receive) :
    step s = .next (rxTick e (s.beginTick e)) := by
  have hnow : s.now = e := now_cons hin
  rw [step_receive hv (hnow ▸ hq e List.mem_cons_self) hseq, hnow]

section
variable {fr f f' : FrameBuf} {ls : List Bool} {r r' : Rx} {v v' : BitVec 8} {b : Bool}

/-- A reception whose first tick is known goes on from there. -/
theorem Receives.cons (hmove : RxMoves b r f v r' f' v') (h : Receives fr r' f' v' ls) :
    Receives fr r f v (b :: ls) := by
  intro s es rest hv hin hq hlev hseq hr hf ht
  obtain ⟨e, es, rfl, hb, hes⟩ := List.map_eq_cons_iff.mp hlev
  have hstep : step s = .next { s.beginTick e with rx := r', frame := f', tmr := v' } := by
    rw [step_rxIn hv hin hq hseq, hmove e _ hb (by simpa using hr) (by simpa using hf) (by simp [ht])]
  obtain ⟨k, t, hk, hrun, hend⟩ := h { s.beginTick e with rx := r', frame := f', tmr := v' } es rest
    (by simpa using hv) (by simp [hin]) (fun e he => hq e (List.mem_cons_of_mem _ he)) hes (by simpa using hseq)
    rfl rfl rfl
  exact ⟨k + 1, t, Nat.succ_le_succ hk, (run_succ hstep k).trans hrun, hend⟩

/-- A reception ends with the sample of the last data bit, whatever the line does then (R134). -/
theorem Receives.last (hentry : r.entry = false) (hst : r.state = .dataDelay) (hd : r.d ≤ v + 1)
    (hi : r.bitcnt.toNat + 1 = 568) (hfr : putDataBit f r.bitcnt.toNat (b != r.l) = fr) :
    Receives fr r f v (b :: ls) := by
  intro s es rest hv hin hq hlev hseq hr hf ht
  obtain ⟨e, es, rfl, rfl, -⟩ := List.map_eq_cons_iff.mp hlev
  subst hr hf ht
  have hstep := step_rxIn hv hin hq hseq
  rw [← beginTick_rx s e] at hentry hst hd hi
  rw [rxTick_last_data_sample hentry hst (by simpa using hd) hi] at hstep
  refine ⟨1, _, by simp, run_succ hstep 0, rfl, rfl, ?_⟩
  simpa [rxFinish, State.edge] using hfr

/-! ### Ticks at which nothing moves -/

theorem add_one_add_ofNat (v : BitVec 8) (m : Nat) : v + 1 + BitVec.ofNat 8 m = v + BitVec.ofNat 8 (m + 1) := by
  bv_omega

/-- A wait for an edge sits out any number of ticks at the reference level. -/
theorem Receives.steady {m : Nat} (hentry : r.entry = false) (hst : r.state.AwaitsEdge)
    (h : Receives fr r f (v + BitVec.ofNat 8 m) ls) : Receives fr r f v (List.replicate m r.l ++ ls) := by
  induction m generalizing v with
  | zero => simpa using h
  | succ m ih =>
    have hmove : RxMoves r.l r f v r f (v + 1) := by
      rintro e s hb rfl rfl ht
      rw [rxTick_no_edge hentry hst hb, ← ht]
    refine .cons hmove (ih ?_)
    rwa [add_one_add_ofNat]

/-- The levels between a boundary and the sampling instant are not looked at (R126, R138). -/
theorem Receives.skip {between : List Bool} (hentry : r.entry = false) (hst : r.state.AwaitsSample)
    (hd : v.toNat + between.length < r.d.toNat) (h : Receives fr r f (v + BitVec.ofNat 8 between.length) ls) :
    Receives fr r f v (between ++ ls) := by
  induction between generalizing v with
  | nil => simpa using h
  | cons b bs ih =>
    rw [List.length_cons] at hd h
    have hv1 : (v + 1).toNat = v.toNat + 1 := by
      have := r.d.isLt
      bv_omega
    have hmove : RxMoves b r f v r f (v + 1) := by
      rintro e s - rfl rfl ht
      rw [rxTick_before_sample hentry hst (by rw [ht, BitVec.lt_def]; omega), ← ht]
    refine .cons hmove (ih (by omega) ?_)
    rwa [add_one_add_ofNat]

/-! ### Boundaries -/

theorem Receives.entry (hentry : r.entry = true)
    (h : Receives fr { r with l := b, state := .waitE0, entry := false } f (v + 1) ls) :
    Receives fr r f v (b :: ls) := by
  refine .cons ?_ h
  rintro e s rfl rfl rfl ht
  rw [rxTick_entry hentry, rxEntry, ← ht]

theorem Receives.first_edge (hentry : r.entry = false) (hst : r.state = .waitE0)
    (h : Receives fr { r with l := !r.l, n := 0, s := 0, state := .cal } f 0 ls) :
    Receives fr r f v ((!r.l) :: ls) := by
  refine .cons ?_ h
  rintro e s hb rfl rfl -
  rw [rxTick_waitE0_edge hentry hst (by simp [hb]), hb]

theorem Receives.cal_edge (hentry : r.entry = false) (hst : r.state = .cal) (hn : r.n.toNat < 15)
    (h : Receives fr { r with l := !r.l, n := r.n + 1, s := r.sumWith (v + 1) } f 0 ls) :
    Receives fr r f v ((!r.l) :: ls) := by
  refine .cons ?_ h
  rintro e s hb rfl rfl ht
  rw [rxTick_cal_edge hentry hst (by simp [hb]) (by bv_omega), intervalSum_eq, hb, ← ht]

theorem Receives.cal_last_edge (hentry : r.entry = false) (hst : r.state = .cal) (hn : r.n.toNat = 15)
    (h : Receives fr
      { r with l := !r.l, n := 16, s := r.sumWith (v + 1), d := samplingDelay (r.sumWith (v + 1)), state := .markDelay }
      f 0 ls) :
    Receives fr r f v ((!r.l) :: ls) := by
  refine .cons ?_ h
  rintro e s hb rfl rfl ht
  rw [rxTick_cal_last_edge hentry hst (by simp [hb]) (by bv_omega), intervalSum_eq, hb, ← ht]

theorem Receives.mark_edge (hentry : r.entry = false) (hst : r.state = .markEdge)
    (h : Receives fr { r with l := !r.l, state := .markDelay } f 0 ls) : Receives fr r f v ((!r.l) :: ls) := by
  refine .cons ?_ h
  rintro e s hb rfl rfl -
  rw [rxTick_markEdge_edge hentry hst (by simp [hb]), hb]

theorem Receives.data_edge (hentry : r.entry = false) (hst : r.state = .dataEdge)
    (h : Receives fr { r with l := !r.l, state := .dataDelay } f 0 ls) : Receives fr r f v ((!r.l) :: ls) := by
  refine .cons ?_ h
  rintro e s hb rfl rfl -
  rw [rxTick_dataEdge_edge hentry hst (by simp [hb]), hb]

/-! ### Samples -/

theorem Receives.training_sample (hentry : r.entry = false) (hst : r.state = .markDelay) (hd : r.d ≤ v + 1)
    (h : Receives fr { r with state := .markEdge } f (v + 1) ls) : Receives fr r f v (r.l :: ls) := by
  refine .cons ?_ h
  rintro e s hb rfl rfl ht
  rw [rxTick_training_sample hentry hst (ht ▸ hd) hb, ← ht]

theorem Receives.marker_sample (hentry : r.entry = false) (hst : r.state = .markDelay) (hd : r.d ≤ v + 1)
    (h : Receives fr { r with l := !r.l, bitcnt := 0, state := .dataEdge } f (v + 1) ls) :
    Receives fr r f v ((!r.l) :: ls) := by
  refine .cons ?_ h
  rintro e s hb rfl rfl ht
  rw [rxTick_marker_sample hentry hst (ht ▸ hd) (by simp [hb]), hb, ← ht]

theorem Receives.data_sample (hentry : r.entry = false) (hst : r.state = .dataDelay) (hd : r.d ≤ v + 1)
    (hi : r.bitcnt.toNat + 1 ≠ 568)
    (h : Receives fr { r with l := b, bitcnt := r.bitcnt + 1, state := .dataEdge }
      (putDataBit f r.bitcnt.toNat (b != r.l)) (v + 1) ls) :
    Receives fr r f v (b :: ls) := by
  refine .cons ?_ h
  rintro e s rfl rfl rfl ht
  rw [rxTick_data_sample hentry hst (ht ▸ hd) hi, State.edge, ← ht]

end

/-! ## The reception of an envelope -/

section
variable {fr f : FrameBuf} {r : Rx} {v : BitVec 8} {p : Nat} {l : Bool}

/-- From a boundary to the cell's sampling instant: the line then shows the level the cell leaves, to the cell's end. -/
theorem Receives.to_sample {b : Bool} {bs : List Bool} (hp : 2 ≤ p) (hentry : r.entry = false)
    (hst : r.state.AwaitsSample) (hd : r.d.toNat = sampleOffset p)
    (h : ∀ v, r.d ≤ v + 1 → Receives fr r f v (cellEnd l b :: (List.replicate (p - sampleOffset p - 1) (cellEnd l b) ++
      cellsLevels p (cellEnd l b) bs))) :
    Receives fr r f 0 (afterBoundary p l (b :: bs)) := by
  obtain ⟨between, hlen, heq⟩ := afterBoundary_cons hp l b bs
  obtain ⟨-, -, hlt⟩ := sampleOffset_in_cell hp
  obtain ⟨q, hq⟩ := Nat.exists_eq_add_of_lt hlt
  rw [heq, show p - sampleOffset p = q + 1 by omega, List.replicate_succ]
  rw [show p - sampleOffset p - 1 = q by omega] at h
  refine .skip hentry hst (by simp; omega) (h _ ?_)
  bv_omega

/-- The data cells from bit i on, with the bits before it in FRAME (R131 to R134). -/
theorem receives_data (hp : 2 ≤ p) (m : Nat) : ∀ {i : Nat} {r : Rx} {f : FrameBuf} {v : BitVec 8}, i + (m + 1) = 568 →
    r.entry = false → r.state = .dataEdge → r.d.toNat = sampleOffset p → r.bitcnt.toNat = i →
    (∀ j < i, dataBit f j = dataBit fr j) →
    Receives fr r f v (cellsLevels p r.l ((List.range' i (m + 1)).map (dataBit fr))) := by
  induction m with
  | zero =>
    intro i r f v him hentry hst hd hi hf
    rw [cellsLevels_eq_boundary hp _ (by simp), List.range'_one, List.map_singleton]
    refine .data_edge hentry hst (.to_sample hp hentry (.inr rfl) hd fun v hv => ?_)
    refine .last hentry rfl hv (by simp; omega) ?_
    rw [cellEnd_bne_boundary, hi]
    exact frame_eq_of_dataBit fun j hj => dataBit_putDataBit_agrees (by omega) hf j (by omega)
  | succ m ih =>
    intro i r f v him hentry hst hd hi hf
    rw [cellsLevels_eq_boundary hp _ (by simp), List.range'_succ, List.map_cons]
    refine .data_edge hentry hst (.to_sample hp hentry (.inr rfl) hd fun v hv => ?_)
    refine .data_sample hentry rfl hv (by simp; omega) (.steady hentry (.inr (.inr (.inr rfl))) ?_)
    rw [cellEnd_bne_boundary, hi]
    exact ih (by omega) hentry rfl hd (by simp; omega) (dataBit_putDataBit_agrees (by omega) hf)

/-- From a boundary of the marker search on, with n training cells before the marker (R127 to R130). -/
theorem receives_search (hp : 2 ≤ p) (n : Nat) : ∀ {r : Rx} {l : Bool}, r.entry = false → r.state = .markDelay →
    r.d.toNat = sampleOffset p → r.l = !l → Receives fr r f 0 (afterBoundary p l (envelopeCells n fr)) := by
  induction n with
  | zero =>
    intro r l hentry hst hd hl
    refine .to_sample hp hentry (.inl hst) hd fun v hv => ?_
    obtain rfl : l = !r.l := by simp [hl]
    refine .marker_sample hentry hst hv (.steady hentry (.inr (.inr (.inr rfl))) ?_)
    rw [frameCells, List.range_eq_range']
    exact receives_data hp 567 rfl hentry rfl hd rfl (by simp)
  | succ n ih =>
    intro r l hentry hst hd hl
    rw [envelopeCells_succ]
    refine .to_sample hp hentry (.inl hst) hd fun v hv => ?_
    have hend : cellEnd l false = r.l := hl.symm
    rw [hend]
    refine .training_sample hentry hst hv (.steady hentry (.inr (.inr (.inl rfl))) ?_)
    rw [cellsLevels_eq_boundary hp _ (envelopeCells_ne_nil _ _)]
    exact .mark_edge hentry rfl (ih hentry rfl hd rfl)

/-- A training cell of the calibration: the next boundary comes p ticks after this one (R124). -/
theorem Receives.cal_cell {cells : List Bool} (hp : 2 ≤ p) (hp' : p ≤ 255) (hentry : r.entry = false)
    (hst : r.state = .cal) (hl : r.l = !l) (hcells : cells ≠ [])
    (h : ∀ v : BitVec 8, (v + 1).toNat = p → Receives fr r f v ((!r.l) :: afterBoundary p r.l cells)) :
    Receives fr r f 0 (afterBoundary p l (false :: cells)) := by
  rw [afterBoundary_training hp, ← hl, cellsLevels_eq_boundary hp _ hcells]
  refine .steady hentry (.inr (.inl hst)) (h _ ?_)
  bv_omega

/-- Calibration with j edges to go before E16, and at least as many training cells after the one begun: at E16 the sampling
delay is that of the period (R124, R125). -/
theorem receives_calibration (hp : 2 ≤ p) (hp' : p ≤ 255) (j : Nat) : ∀ {m : Nat} {r : Rx} {l : Bool}, j ≤ m →
    r.entry = false → r.state = .cal → r.n.toNat + j = 15 → r.s.toNat = (r.n.toNat - 8) * p → r.l = !l →
    Receives fr r f 0 (afterBoundary p l (false :: envelopeCells m fr)) := by
  induction j with
  | zero =>
    intro m r l hm hentry hst hn hs hl
    refine .cal_cell hp hp' hentry hst hl (envelopeCells_ne_nil _ _) fun v hv => ?_
    refine .cal_last_edge hentry hst hn (receives_search hp _ hentry rfl (samplingDelay_toNat ?_) rfl)
    rw [Rx.sumWith_toNat hp' (by omega) hs hv, show r.n.toNat = 15 from hn]
  | succ j ih =>
    intro m r l hm hentry hst hn hs hl
    obtain ⟨m, rfl⟩ := Nat.exists_eq_add_of_le' (Nat.one_le_of_lt hm)
    refine .cal_cell hp hp' hentry hst hl (envelopeCells_ne_nil _ _) fun v hv => ?_
    have hn1 : (r.n + 1).toNat = r.n.toNat + 1 := by bv_omega
    refine .cal_edge hentry hst (by omega) (ih (Nat.le_of_succ_le_succ hm) hentry hst ?_ ?_ rfl)
    · simp only [hn1]
      omega
    · simp only [hn1]
      exact Rx.sumWith_toNat hp' (by omega) hs hv

/-- From the entry of RECEIVE on, whatever the registers and FRAME hold (R140). -/
theorem receives_envelope (hp : 2 ≤ p) (hp' : p ≤ 255) {lead n : Nat} (hlead : 1 ≤ lead) (hn : 16 ≤ n)
    (hentry : r.entry = true) : Receives fr r f v (envelope p lead n l fr) := by
  obtain ⟨lead, rfl⟩ := Nat.exists_eq_add_of_le' hlead
  obtain ⟨m, rfl⟩ := Nat.exists_eq_add_of_le' (Nat.one_le_of_lt hn)
  refine .entry hentry (.steady rfl (.inl rfl) ?_)
  rw [cellsLevels_eq_boundary hp _ (envelopeCells_ne_nil _ _)]
  exact .first_edge rfl rfl (receives_calibration hp hp' 15 (Nat.le_of_succ_le_succ hn) rfl rfl rfl (by simp) rfl)

end

/-- Settles O37: the whole envelope, from the entry tick to the sample of the last data bit. -/
theorem selfCalibration : Obligations.SelfCalibration := by
  intro p lead n l fr s es rest hv hp hp' hlead hn hseq hentry hin hq hlev
  exact receives_envelope hp hp' hlead hn hentry s es rest hv hin hq hlev hseq rfl rfl rfl

end Sys2Proof.Machine
end

section
/-! SUPPORT. The flash engine family: what each tick of a page operation leaves alone, one flash command from its issue to
its completion (R164, R165), and a Program from DECODE to CLEAR (R167, R225). -/

namespace Sys2Proof.Machine

/-! ## Runs that end well -/

/-- n ticks of s are all ordinary, and P holds after them. -/
def Reaches (n : Nat) (P : State → Prop) (s : State) : Prop := ∃ t, run n s = .next t ∧ P t

theorem Reaches.zero {P : State → Prop} {s : State} (h : P s) : Reaches 0 P s := ⟨s, rfl, h⟩

theorem Reaches.step {n : Nat} {P : State → Prop} {s u : State} (hstep : step s = .next u) (h : Reaches n P u) :
    Reaches (n + 1) P s :=
  let ⟨t, hrun, ht⟩ := h
  ⟨t, (run_succ hstep n).trans hrun, ht⟩

theorem Reaches.trans {m n : Nat} {P Q : State → Prop} {s : State} (h : Reaches m Q s)
    (hnext : ∀ u, Q u → Reaches n P u) : Reaches (m + n) P s := by
  obtain ⟨u, hrun, hu⟩ := h
  obtain ⟨t, hrun', ht⟩ := hnext u hu
  exact ⟨t, (run_add hrun n).trans hrun', ht⟩

/-! ## The controllers' part of a tick -/

section
variable {e : Inputs} {s : State}

theorem flashController_idle (h : s.flashOp = none) : s.flashController e = s := by
  simp [State.flashController, h]

/-- While fl_busy reads 1 nothing completes (R64). -/
theorem flashController_busy (h : e.flBusy = true) : s.flashController e = s := by
  cases hop : s.flashOp with
  | none => exact flashController_idle hop
  | some op => simp [State.flashController, hop, h]

/-- The first tick at which fl_busy reads 0 completes the operation (R64). -/
theorem flashController_free {op : FlashOp} (hop : s.flashOp = some op) (h : e.flBusy = false) :
    s.flashController e = { s with flash := s.putPage op.pb (op.result s.params), flashOp := none } := by
  simp [State.flashController, hop, h]

theorem flashByte_beginTick_idle (h : s.flashOp = none) (a : Nat) : (s.beginTick e).flashByte a = s.flashByte a := by
  have hbegun : (s.beginTick e).flashOp = none := by simp [flashController_idle h, h]
  rw [flashByte_idle hbegun, flashByte_idle h, beginTick_params, beginTick_flash, flashController_idle h]

theorem eepromCollaborator_idle (h : s.eepromOp = none) : s.eepromCollaborator e = s := by
  simp [State.eepromCollaborator, h]

end

/-! ## FPE's ticks -/

section
variable {e : Inputs} {es : List Inputs} {s : State}

/-- A quiet tick with FPE called is FPE's (R160). -/
theorem step_fpe (hv : ParamsValid s.params) (hin : s.inputs = e :: es) (hq : e.event = .quiet) (hc : s.FpeCalled) :
    step s = fpeTick e (s.beginTick e) := by
  have hnow : s.now = e := now_cons hin
  rw [step_active hv (hnow ▸ hq), hnow]
  obtain hseq | hseq := hc <;> rw [activeRule_seq _ _ _ ((beginTick_seq s e).trans hseq)]

/-- The state that follows each of the two waits for the flash controller (R164, R165). -/
def FpeState.afterWait : FpeState → FpeState
  | .eraseWait => .write
  | .writeWait => .done
  | q => q

/-- A state in which FPE waits for the flash controller (R164, R165). -/
def FpeState.AwaitsFlash (q : FpeState) : Prop := q = .eraseWait ∨ q = .writeWait

theorem fpeTick_wait_busy (hst : s.fpe.state.AwaitsFlash) (h : e.flBusy = true) : fpeTick e s = .next s := by
  obtain hst | hst := hst <;> rw [fpeTick_state e s _ hst]
  · exact congrArg _ (if_pos h)
  · exact congrArg _ (if_pos h)

theorem fpeTick_wait_free (hst : s.fpe.state.AwaitsFlash) (h : e.flBusy = false) :
    fpeTick e s = .next (s.fpeGoto s.fpe.state.afterWait) := by
  have hfree : ¬e.flBusy = true := by simp [h]
  obtain hst | hst := hst <;> rw [fpeTick_state e s _ hst, hst]
  · exact congrArg _ (if_neg hfree)
  · exact congrArg _ (if_neg hfree)

/-- DONE changes nothing in the arrays (R166). -/
theorem fpeDone_sameArrays (s : State) : SameArrays s (fpeDone s) := by
  unfold fpeDone
  dsimp only
  split
  · exact ⟨fun a => rfl, fun a => rfl, rfl, rfl⟩
  · exact ⟨fun a => rfl, fun a => rfl, rfl, rfl⟩
  · exact ⟨fun a => rfl, fun a => rfl, rfl, rfl⟩

/-- DONE of a Program: PROGRAM_OK, and on to CLEAR (R166, R225). -/
theorem fpeDone_program (h : s.seq = .program) :
    fpeDone s = ((s.restoreGie.fpeGoto .idle).emit .programOk).goto .clear := by
  simp [fpeDone, h]

end

/-! ## INTERCEPT -/

/-- The page buffer is one that RVI intercepts: page 0, starting with a relative jump (R163, R190, R191). -/
abbrev State.Intercepts (s : State) : Prop := s.fpe.pb = 0 ∧ isRjmp (word0 s.fpe.pbuf) = true

/-- What INTERCEPT makes of a state, whether it intercepts or not (R163, R190, R191). -/
def intercepted (s : State) : State :=
  { s with
    entryT := if s.Intercepts then rjmpTarget s.params (word0 s.fpe.pbuf) 0 else s.entryT
    fpe := { s.fpe with
      pbuf := if s.Intercepts then putWord0 s.fpe.pbuf (entryJumpWord s.params) else s.fpe.pbuf
      state := .erase } }

theorem interceptTick_eq (s : State) : interceptTick s = .next (intercepted s) := by
  obtain ⟨hpb, hr, h⟩ | ⟨hno, h⟩ := interceptTick_cases s <;> rw [h, intercepted]
  · simp only [interceptWord, if_pos (And.intro hpb hr)]
  · have hnot : ¬s.Intercepts := fun hi => hno.elim (· hi.1) (by simp [hi.2])
    simp only [interceptSkip, State.fpeGoto, if_neg hnot]

theorem putWord0_getElem_zero (b : Page) (w : Word) : (putWord0 b w)[0] = loByte w := by simp [putWord0]

theorem putWord0_getElem_one (b : Page) (w : Word) : (putWord0 b w)[1] = hiByte w := by simp [putWord0]

theorem putWord0_getElem_of_ge (b : Page) (w : Word) {j : Nat} (h : j < 64) (hj : 2 ≤ j) :
    (putWord0 b w)[j] = b[j] := by
  rw [putWord0, Vector.getElem_set_ne _ _ (by omega), Vector.getElem_set_ne _ _ (by omega)]

/-! ## The stages of a page operation -/

/-- A stage of the page operation that stood at s₀ past INTERCEPT: FPE is in state q, the controller works on op, the
inputs es are to come, and of all that s₀ held only the page, the time and the flash port have changed. -/
structure FpeStage (s₀ : State) (q : FpeState) (op : Option FlashOp) (es : List Inputs) (s : State) : Prop where
  fpe : s.fpe = { s₀.fpe with state := q }
  flashOp : s.flashOp = op
  inputs : s.inputs = es
  flash : Memory.wf (flashBlank s.params) s.params.flashSize s.flash = true
  outside : ∀ x, ¬(s₀.fpe.pb.toNat ≤ x ∧ x < s₀.fpe.pb.toNat + 64) →
    Memory.read (flashBlank s.params) s.flash x = Memory.read (flashBlank s.params) s₀.flash x
  params : s.params = s₀.params
  seq : s.seq = s₀.seq
  frame : s.frame = s₀.frame
  entryT : s.entryT = s₀.entryT
  ev : s.ev = s₀.ev
  gie : s.gie = s₀.gie
  gieSave : s.gieSave = s₀.gieSave
  eeprom : s.eeprom = s₀.eeprom
  eepromOp : s.eepromOp = none
  hoValid : s.ports.hoValid = s₀.ports.hoValid

/-- The page that FPE works on holds d. -/
abbrev State.PageHolds (s : State) (d : Page) : Prop :=
  ∀ j, (h : j < 64) → s.flashByte (s.fpe.pb.toNat + j) = d[j]

namespace FpeStage
variable {s₀ s : State} {q w : FpeState} {op op' : Option FlashOp} {cmd : FlashOp} {e : Inputs} {es : List Inputs}

/-- A tick begins: what the flash controller does to its operation and the array is the only change. -/
theorem beginTick (h : FpeStage s₀ q op (e :: es) s) (hop : (s.flashController e).flashOp = op')
    (hflash : Memory.wf (flashBlank s.params) s.params.flashSize (s.flashController e).flash = true)
    (hout : ∀ x, ¬(s₀.fpe.pb.toNat ≤ x ∧ x < s₀.fpe.pb.toNat + 64) →
      Memory.read (flashBlank s.params) (s.flashController e).flash x = Memory.read (flashBlank s.params) s₀.flash x) :
    FpeStage s₀ q op' es (s.beginTick e) where
  fpe := by simpa using h.fpe
  flashOp := by simpa using hop
  inputs := by simp [h.inputs]
  flash := by simpa using hflash
  outside := by simpa using hout
  params := by simpa using h.params
  seq := by simpa using h.seq
  frame := by simpa using h.frame
  entryT := by simpa using h.entryT
  ev := by simpa using h.ev
  gie := by simpa using h.gie
  gieSave := by simpa using h.gieSave
  eeprom := by simpa [eepromCollaborator_idle h.eepromOp] using h.eeprom
  eepromOp := by simpa [eepromCollaborator_idle h.eepromOp] using h.eepromOp
  hoValid := by simpa using h.hoValid

/-- A tick at which nothing completes. -/
theorem beginTick_held (h : FpeStage s₀ q op (e :: es) s) (hheld : s.flashController e = s) :
    FpeStage s₀ q op es (s.beginTick e) :=
  h.beginTick (hheld.symm ▸ h.flashOp) (hheld.symm ▸ h.flash) (hheld.symm ▸ h.outside)

/-- The tick at which a command on FPE's page completes (R64). -/
theorem beginTick_free (h : FpeStage s₀ q (some cmd) (e :: es) s) (hpb : cmd.pb = s₀.fpe.pb)
    (hfits : s₀.fpe.pb.toNat + 64 ≤ s₀.params.flashSize) (hfree : e.flBusy = false) :
    FpeStage s₀ q none es (s.beginTick e) ∧ (s.beginTick e).PageHolds (cmd.result s₀.params) := by
  have hctl := flashController_free h.flashOp hfree
  rw [← h.params, ← hpb] at hfits
  have hbegun : FpeStage s₀ q none es (s.beginTick e) := by
    refine h.beginTick (by rw [hctl]) ?_ fun x hx => ?_
    · rw [hctl]
      exact putPage_wf h.flash hfits _
    · rw [hctl, read_putPage h.flash hfits, hpb, if_neg hx, h.outside x hx]
  refine ⟨hbegun, fun j hj => ?_⟩
  rw [flashByte_idle hbegun.flashOp, hbegun.fpe, ← hpb, beginTick_params, beginTick_flash, hctl,
    read_putPage h.flash hfits, if_pos (by omega), h.params]
  simp [hj]

/-- Between two commands FLASH reads as it did, outside the page (R64). -/
theorem flashByte_outside (h : FpeStage s₀ q none es s) {x : Nat}
    (hx : ¬(s₀.fpe.pb.toNat ≤ x ∧ x < s₀.fpe.pb.toNat + 64)) :
    s.flashByte x = Memory.read (flashBlank s₀.params) s₀.flash x := by
  rw [flashByte_idle h.flashOp, h.outside x hx, h.params]

theorem eepromByte_eq (h : FpeStage s₀ q op es s) (a : Nat) : s.eepromByte a = Memory.read eepromBlank s₀.eeprom a := by
  rw [eepromByte_idle h.eepromOp, h.eeprom]

theorem fpeGoto (h : FpeStage s₀ q op es s) (v : FpeState) : FpeStage s₀ v op es (s.fpeGoto v) :=
  { h with fpe := by simp [h.fpe] }

/-- FPE issues a command; its page exists, so the controller accepts it (R64). -/
theorem flashCmd (h : FpeStage s₀ q none es s) (hfits : cmd.pb.toNat + 64 ≤ s₀.params.flashSize) :
    ∃ t, s.flashCmd cmd = .next t ∧ FpeStage s₀ q (some cmd) es t := by
  rw [← h.params] at hfits
  refine ⟨_, if_pos hfits, { h with flashOp := rfl, hoValid := ?_ }⟩
  cases cmd with
  | erase pb => exact h.hoValid
  | write pb data => exact h.hoValid

/-- A quiet tick of a stage is FPE's. -/
theorem step_eq (h : FpeStage s₀ q op (e :: es) s) (hv : ParamsValid s₀.params) (hc : s₀.FpeCalled)
    (hq : e.event = .quiet) : step s = fpeTick e (s.beginTick e) :=
  step_fpe (h.params ▸ hv) h.inputs hq (by rwa [State.FpeCalled, h.seq])

section
variable {busy es rest : List Inputs} {free : Inputs}

/-- The wait for a command: any number of busy ticks, and the one at which the command completes (R164, R165). -/
theorem wait (h : FpeStage s₀ w (some cmd) (busy ++ free :: rest) s) (hv : ParamsValid s₀.params) (hc : s₀.FpeCalled)
    (hq : AllQuiet (busy ++ [free])) (hbusy : FlashBusy busy) (hfree : free.flBusy = false) (hw : w.AwaitsFlash)
    (hpb : cmd.pb = s₀.fpe.pb) (hfits : s₀.fpe.pb.toNat + 64 ≤ s₀.params.flashSize) :
    Reaches (busy.length + 1)
      (fun t => FpeStage s₀ w.afterWait none rest t ∧ t.PageHolds (cmd.result s₀.params)) s := by
  induction busy generalizing s with
  | nil =>
    obtain ⟨hb, hpage⟩ := h.beginTick_free hpb hfits hfree
    have hst : (s.beginTick free).fpe.state = w := by rw [hb.fpe]
    have hstep := h.step_eq hv hc (hq free (by simp))
    rw [fpeTick_wait_free (hst ▸ hw) hfree, hst] at hstep
    exact .step hstep (.zero ⟨hb.fpeGoto _, hpage⟩)
  | cons e busy ih =>
    obtain ⟨he, hbusy⟩ := List.forall_mem_cons.mp hbusy
    have hb := h.beginTick_held (flashController_busy he)
    have hst : (s.beginTick e).fpe.state = w := by rw [hb.fpe]
    have hstep := h.step_eq hv hc (hq e (by simp))
    rw [fpeTick_wait_busy (hst ▸ hw) he] at hstep
    exact .step hstep (ih hb (fun e' he' => hq e' (List.mem_cons_of_mem _ he')) hbusy)

/-- One flash command of FPE, issued in state q and awaited in state w. -/
theorem command (h : FpeStage s₀ q none (es ++ rest) s) (hv : ParamsValid s₀.params) (hc : s₀.FpeCalled)
    (hq : AllQuiet es) (hes : CommandTicks es) (hw : w.AwaitsFlash) (hpb : cmd.pb = s₀.fpe.pb)
    (hfits : s₀.fpe.pb.toNat + 64 ≤ s₀.params.flashSize)
    (hissue : ∀ e b, b.fpe = { s₀.fpe with state := q } → fpeTick e b = (b.fpeGoto w).flashCmd cmd) :
    Reaches es.length (fun t => FpeStage s₀ w.afterWait none rest t ∧ t.PageHolds (cmd.result s₀.params)) s := by
  obtain ⟨issue, busy, free, rfl, hbusy, hfree⟩ := hes
  obtain ⟨hq0, hq⟩ := List.forall_mem_cons.mp hq
  have hb := h.beginTick_held (flashController_idle h.flashOp)
  obtain ⟨t, hcmd, ht⟩ := (hb.fpeGoto w).flashCmd (cmd := cmd) (by rwa [hpb])
  have hstep := h.step_eq hv hc hq0
  rw [hissue issue _ hb.fpe, hcmd] at hstep
  rw [List.length_append, List.length_cons, Nat.add_right_comm]
  exact .step hstep (wait (by simpa using ht) hv hc hq hbusy hfree hw hpb hfits)

/-- A page operation from ERASE to DONE: the page ends with what the page buffer holds, and DONE runs on that (R164 to
R167). -/
theorem erase_and_write {er wr : List Inputs} {dn : Inputs} (h : FpeStage s₀ .erase none (er ++ (wr ++ dn :: rest)) s)
    (hv : ParamsValid s₀.params) (hc : s₀.FpeCalled) (hfits : s₀.fpe.pb.toNat + 64 ≤ s₀.params.flashSize)
    (her : CommandTicks er) (hwr : CommandTicks wr) (hq : AllQuiet (er ++ (wr ++ [dn]))) :
    Reaches (er.length + (wr.length + 1))
      (fun t => ∃ b, FpeStage s₀ .done none rest b ∧ b.PageHolds s₀.fpe.pbuf ∧ t = fpeDone b) s := by
  obtain ⟨hqe, hq⟩ := List.forall_mem_append.mp hq
  obtain ⟨hqw, hqd⟩ := List.forall_mem_append.mp hq
  refine (h.command (w := .eraseWait) (cmd := .erase s₀.fpe.pb) hv hc hqe her (.inl rfl) rfl hfits ?_).trans
    fun u ⟨hu, _⟩ => ?_
  · intro e b hb
    rw [fpeTick_state e b .erase (congrArg Fpe.state hb)]
    simp only [fpeErase, hb]
  refine (hu.command (w := .writeWait) (cmd := .write s₀.fpe.pb s₀.fpe.pbuf) hv hc hqw hwr (.inr rfl) rfl hfits ?_).trans
    fun v ⟨hv', hpage⟩ => ?_
  · intro e b hb
    rw [fpeTick_state e b .write (congrArg Fpe.state hb)]
    simp only [fpeWrite, hb]
  have hb := hv'.beginTick_held (flashController_idle hv'.flashOp)
  have hstep := hv'.step_eq hv hc (hqd dn (by simp))
  rw [fpeTick_state _ _ .done (congrArg Fpe.state hb.fpe)] at hstep
  refine .step hstep (.zero ⟨_, hb, fun j hj => ?_, rfl⟩)
  rw [beginTick_fpe, flashByte_beginTick_idle hv'.flashOp]
  exact hpage j hj

end
end FpeStage

/-! ## A Program from DECODE to CLEAR -/

/-- A page operand is a page base (R66, R95). -/
theorem pageBase_pageOperand (f : Fields) : pageBase (pageOperand f) = pageOperand f := by
  have h : pageAddr f.pageNumber % 64#16 = 0#16 := by
    apply BitVec.eq_of_toNat_eq
    simp only [pageAddr, BitVec.toNat_umod, BitVec.toNat_mul, BitVec.toNat_ofNat, Nat.reducePow, Nat.reduceMod]
    omega
  rw [pageBase, pageOperand, h, BitVec.sub_zero]

/-- The state in which a tick with no operation in progress has begun (R121). -/
def State.idleTick (s : State) : State :=
  { s with
    tmr := s.tmr + 1
    ports := { s.ports with flCmd := .none, eeReq := false }
    inputs := s.inputs.drop 1
    tick := s.tick + 1 }

theorem beginTick_idle {s : State} (e : Inputs) (hop : s.flashOp = none) (heop : s.eepromOp = none) :
    s.beginTick e = s.idleTick := by
  simp [State.beginTick, State.environmentTick, flashController_idle hop, eepromCollaborator_idle heop, State.idleTick]

/-- The ticks ENTER and INTERCEPT of a page operation that takes its page from the caller (R162, R163). -/
theorem page_reaches_erase {s : State} {en ic : Inputs} {es : List Inputs} (hv : ParamsValid s.params)
    (hflash : Memory.wf (flashBlank s.params) s.params.flashSize s.flash = true) (hop : s.flashOp = none)
    (heop : s.eepromOp = none) (hc : s.FpeCalled) (hst : s.fpe.state = .enter) (hmode : s.fpe.mode = .page)
    (hin : s.inputs = en :: ic :: es) (hqe : en.event = .quiet) (hqi : ic.event = .quiet) :
    Reaches 2 (FpeStage (intercepted (fpeEnter s)) .erase none es) s := by
  have henter : step s = .next (fpeEnter s.idleTick) := by
    rw [step_fpe hv hin hqe hc, beginTick_idle _ hop heop, fpeTick_state _ s.idleTick .enter hst]
  have hintercept : step (fpeEnter s.idleTick) = .next (intercepted (fpeEnter s.idleTick).idleTick) := by
    have hst' : (fpeEnter s.idleTick).fpe.state = .intercept := by simp [fpeEnter, State.idleTick, hmode]
    rw [step_fpe (s := fpeEnter s.idleTick) hv (congrArg (List.drop 1) hin) hqi hc,
      beginTick_idle (s := fpeEnter s.idleTick) _ hop heop,
      fpeTick_state ic (fpeEnter s.idleTick).idleTick .intercept hst', interceptTick_eq]
  have hin' : (s.inputs.drop 1).drop 1 = es := by simp [hin]
  exact .step henter (.step hintercept (.zero
    { fpe := rfl, flashOp := hop, inputs := hin', flash := hflash, outside := fun _ _ => rfl, params := rfl, seq := rfl,
      frame := rfl, entryT := rfl, ev := rfl, gie := rfl, gieSave := rfl, eeprom := rfl, eepromOp := heop, hoValid := rfl }))

/-- A quiet DECODE tick of a frame received well runs the command (R222). -/
theorem step_decode {s : State} (hv : ParamsValid s.params) (hq : s.now.event = .quiet) (hseq : s.seq = .decode)
    (hok : s.rx.ok = true) : step s = exec (decodeFrame s.frame) (s.beginTick s.now) := by
  rw [step_active hv hq, activeRule_seq _ _ .decode (by simpa using hseq)]
  simp [decodeTick, fetchFrame, hok]

/-- A Program below BOOTLOADER_START is started (R225). -/
theorem exec_program_below {f : Fields} {s : State} (h : (pageOperand f).toNat < s.params.blStart) :
    exec (.cmdProgram f) s = .next ((startPage (pageOperand f) f.payload s).goto .program) :=
  if_neg (by simpa [selfProtected] using h)

/-- A Program past INTERCEPT, but for the time ENTER and INTERCEPT take (R225, R162, R163). -/
def programmed (f : Fields) (s : State) : State :=
  intercepted (fpeEnter ((startPage (pageOperand f) f.payload s.idleTick).goto .program))

/-- The first three ticks of a Program below BOOTLOADER_START. -/
theorem program_reaches_erase {f : Fields} {s : State} {d en ic : Inputs} {es : List Inputs} (hv : ParamsValid s.params)
    (harr : s.ArraysOk) (hop : s.flashOp = none) (heop : s.eepromOp = none) (hseq : s.seq = .decode)
    (hok : s.rx.ok = true) (hf : decodeFrame s.frame = .cmdProgram f) (hblow : (pageOperand f).toNat < s.params.blStart)
    (hin : s.inputs = d :: en :: ic :: es) (hq : AllQuiet [d, en, ic]) :
    Reaches 3 (FpeStage (programmed f s) .erase none es) s := by
  obtain ⟨hqd, hq⟩ := List.forall_mem_cons.mp hq
  obtain ⟨hqe, hq⟩ := List.forall_mem_cons.mp hq
  have hdecode : step s = .next ((startPage (pageOperand f) f.payload s.idleTick).goto .program) := by
    rw [step_decode hv (now_cons hin ▸ hqd) hseq hok, hf, beginTick_idle _ hop heop]
    exact exec_program_below hblow
  exact .step hdecode (page_reaches_erase hv harr.flash hop heop (.inl rfl) rfl rfl (congrArg (List.drop 1) hin) hqe
    (hq ic List.mem_cons_self))

/-- The Program's word 0 is intercepted (R163, R190). -/
theorem programmed_of_intercepts {f : Fields} (s : State)
    (h : pageOperand f = 0 ∧ isRjmp (le16 f.payload[0] f.payload[1]) = true) :
    (programmed f s).entryT = rjmpTarget s.params (le16 f.payload[0] f.payload[1]) 0 ∧
      (programmed f s).fpe.pbuf = putWord0 f.payload (entryJumpWord s.params) := by
  rw [← pageBase_pageOperand f] at h
  exact ⟨if_pos h, if_pos h⟩

/-- Nothing of the Program is intercepted (R191). -/
theorem programmed_of_not_intercepts {f : Fields} (s : State)
    (h : ¬(pageOperand f = 0 ∧ isRjmp (le16 f.payload[0] f.payload[1]) = true)) :
    (programmed f s).entryT = s.entryT ∧ (programmed f s).fpe.pbuf = f.payload := by
  rw [← pageBase_pageOperand f] at h
  exact ⟨if_neg h, if_neg h⟩

/-- Settles O43: DECODE, ENTER and INTERCEPT make the page buffer, the two commands put it in the page, and DONE goes
on. -/
theorem programWritesThePage : Obligations.ProgramWritesThePage := by
  intro f s d en ic dn er wr rest hv harr hop heop hseq hok hf hblow hin her hwr hq
  rw [show ([d, en, ic] ++ er ++ wr ++ [dn] : List Inputs) = [d, en, ic] ++ (er ++ (wr ++ [dn])) by simp] at hin hq
  obtain ⟨hq3, hqo⟩ := List.forall_mem_append.mp hq
  have hpb : (programmed f s).fpe.pb = pageOperand f := pageBase_pageOperand f
  have hfits : (programmed f s).fpe.pb.toNat + 64 ≤ s.params.flashSize := by
    obtain ⟨-, -, -, -, hsize, -⟩ := hv
    rw [hpb]
    omega
  have hstart := program_reaches_erase (es := er ++ (wr ++ dn :: rest)) hv harr hop heop hseq hok hf hblow
    (by simpa using hin) hq3
  obtain ⟨t, hrun, b, hb, hpage, ht⟩ := hstart.trans
    fun v hv' => hv'.erase_and_write hv (.inl rfl) hfits her hwr hqo
  have hsame : SameArrays b t := ht ▸ fpeDone_sameArrays b
  refine ⟨t, (congrArg (run · s) (by omega)).trans hrun, ?_⟩
  have heeprom : ∀ a, t.eepromByte a = s.eepromByte a := fun a =>
    calc t.eepromByte a = b.eepromByte a := hsame.eeprom a
      _ = Memory.read eepromBlank s.eeprom a := hb.eepromByte_eq a
      _ = s.eepromByte a := (eepromByte_idle heop a).symm
  have houtside : SameFlashOutside (pageOperand f).toNat 64 s t := fun x hx =>
    calc t.flashByte x = b.flashByte x := hsame.flash x
      _ = Memory.read (flashBlank s.params) s.flash x := hb.flashByte_outside (hpb ▸ hx)
      _ = s.flashByte x := (flashByte_idle hop x).symm
  have hpage : ∀ j, (h : j < 64) → t.flashByte ((pageOperand f).toNat + j) = (programmed f s).fpe.pbuf[j] := by
    simpa only [State.PageHolds, hb.fpe, hpb, hsame.flash] using hpage
  rw [fpeDone_program hb.seq] at ht
  have hentry : t.entryT = (programmed f s).entryT := by
    rw [ht]
    exact hb.entryT
  subst ht
  refine ⟨rfl, congrArg (· ++ _) hb.ev, hb.gieSave, hb.frame, hb.flashOp, rfl, hb.hoValid, hb.inputs, heeprom, houtside,
    ?_⟩
  split
  next hi =>
    obtain ⟨htarget, hbuf⟩ := programmed_of_intercepts s hi
    have hzero : (pageOperand f).toNat = 0 := by simp [hi.1]
    simp only [hbuf, hzero, Nat.zero_add] at hpage
    exact ⟨hentry.trans htarget, (hpage 0 (by decide)).trans (putWord0_getElem_zero ..),
      (hpage 1 (by decide)).trans (putWord0_getElem_one ..),
      fun j h hj => (hpage j h).trans (putWord0_getElem_of_ge _ _ h hj)⟩
  next hi =>
    obtain ⟨hkept, hbuf⟩ := programmed_of_not_intercepts s hi
    simp only [hbuf] at hpage
    exact ⟨hentry.trans hkept, hpage⟩

end Sys2Proof.Machine
end

section
/-! SUPPORT. The trampoline family: a page operation that merges its data into the page (R168, R169, R171), and the two
exits, which hand off to the persisted pointer (R194) and to the transient one it has become (R195, R196). -/

namespace Sys2Proof.Machine

/-! ## EXIT_NP -/

/-- Settles O45: EXIT_NP runs on the begun tick, which reads FLASH as the state before it does. -/
theorem exitWithoutPersistHandsOff : Obligations.ExitWithoutPersistHandsOff := by
  intro s hv hq hseq hop
  have hread : (s.beginTick s.now).entryP =
      le16 (s.flashByte (s.params.blStart - 2)) (s.flashByte (s.params.blStart - 1)) := by
    rw [State.entryP, flashByte_beginTick_idle hop, flashByte_beginTick_idle hop, beginTick_params]
  refine ⟨pointerHighAddr (s.beginTick s.now).params, ?_⟩
  rw [step_active hv hq, activeRule_seq _ _ .exitNp ((beginTick_seq ..).trans hseq),
    exitNp_eq ((beginTick_params ..).symm ▸ hv), hread]
  rfl

/-! ## A page operation that merges -/

/-- The state a MERGE of data at a starts with (R168). -/
def mergeStarted (a : Word) (data : List Byte) (s : State) : State :=
  { s with
    fpe :=
      { s.fpe with
        mode := .merge
        pb := pageBase a
        mrgA := a
        mrgLen := BitVec.ofNat 7 data.length
        mrgData := overwrite s.fpe.mrgData data
        state := .enter } }

theorem startMerge_eq {a : Word} {data : List Byte} {s : State} (h : MergeRangeOk s.params a data.length) :
    startMerge a data s = .next (mergeStarted a data s) := if_pos h

/-- The page buffer assembled, ready for INTERCEPT (R169). -/
def assembled (s : State) : State :=
  { s with fpe := { s.fpe with pbuf := Vector.ofFn (assembledByte s), state := .intercept } }

/-- ASSEMBLE of a page that exists fills the page buffer, and leaves some address on fl_rdaddr (R169). -/
theorem fpeAssemble_eq {s : State} (h : s.fpe.pb.toNat + 64 ≤ s.params.flashSize) :
    ∃ a, fpeAssemble s = .next ((assembled s).driveRdaddr a) := by
  rw [fpeAssemble, if_pos h]
  obtain hd | ⟨j, -, -, hd⟩ := driveReadBack_cases s
  · exact ⟨s.ports.flRdaddr, congrArg _ (by rw [hd]; rfl)⟩
  · exact ⟨fpeAddr s j, congrArg _ (by rw [hd]; rfl)⟩

/-- With no operation in progress time does not change what a byte reads as (R62). -/
theorem flashByte_idleTick {s : State} (hop : s.flashOp = none) (a : Nat) : s.idleTick.flashByte a = s.flashByte a := by
  rw [flashByte_idle hop, flashByte_idle (s := s.idleTick) hop]
  rfl

/-- With no operation in progress time does not change what ASSEMBLE makes. -/
theorem assembled_idleTick {s : State} (hop : s.flashOp = none) : assembled s.idleTick = (assembled s).idleTick := by
  have h : assembledByte s.idleTick = assembledByte s :=
    funext fun j => congrArg (ite _ _) (flashByte_idleTick hop _)
  rw [assembled, h]
  rfl

/-- A byte of an assembled page: the merge data where the merge covers it, and FLASH's byte elsewhere (R169). -/
theorem assembledByte_eq {s : State} (h : s.fpe.pb.toNat + 64 ≤ 65536) (j : Fin 64) :
    assembledByte s j =
      if s.fpe.mrgA.toNat ≤ s.fpe.pb.toNat + j ∧ s.fpe.pb.toNat + j < s.fpe.mrgA.toNat + s.fpe.mrgLen.toNat then
        s.fpe.mrgData.toList.getD (s.fpe.pb.toNat + j - s.fpe.mrgA.toNat) 0
      else s.flashByte (s.fpe.pb.toNat + j) := by
  have haddr : (fpeAddr s j).toNat = s.fpe.pb.toNat + j := by
    rw [fpeAddr, BitVec.toNat_add, BitVec.toNat_ofNat]
    omega
  simp only [assembledByte, mergeCovers, decide_eq_true_eq, readByte_eq, haddr]

/-- A quiet FPE tick with no operation in progress (R160). -/
theorem step_fpe_idle {e : Inputs} {es : List Inputs} {s : State} (hv : ParamsValid s.params) (hop : s.flashOp = none)
    (heop : s.eepromOp = none) (hc : s.FpeCalled) (hin : s.inputs = e :: es) (hq : e.event = .quiet) :
    step s = fpeTick e s.idleTick := by
  rw [step_fpe hv hin hq hc, beginTick_idle _ hop heop]

/-- A stage of a page operation starts where the ticks up to INTERCEPT have changed the time and fl_rdaddr only. -/
theorem FpeStage.of_intercepted {m u : State} {es : List Inputs} (hu : ∃ a, u = m.idleTick.idleTick.driveRdaddr a)
    (hflash : Memory.wf (flashBlank m.params) m.params.flashSize m.flash = true) (hop : m.flashOp = none)
    (heop : m.eepromOp = none) (hin : u.inputs.drop 1 = es) :
    FpeStage (intercepted m) .erase none es (intercepted u.idleTick) := by
  obtain ⟨a, rfl⟩ := hu
  exact
    { fpe := rfl, flashOp := hop, inputs := hin, flash := hflash, outside := fun _ _ => rfl, params := rfl, seq := rfl,
      frame := rfl, entryT := rfl, ev := rfl, gie := rfl, gieSave := rfl, eeprom := rfl, eepromOp := heop, hoValid := rfl }

/-- Merge data as ASSEMBLE reads it back from the buffer that MERGE wrote it to (R168, R169). -/
theorem overwrite_getD (b : Page) {ds : List Byte} {k : Nat} (hk : k < ds.length) (h : k < 64) :
    (overwrite b ds).toList.getD k 0 = ds[k] := by
  simp [overwrite, h, hk]

/-- The ticks ENTER, ASSEMBLE and INTERCEPT of a page operation that merges (R162, R169, R163). -/
theorem merge_reaches_erase {s : State} {en as ic : Inputs} {es : List Inputs} (hv : ParamsValid s.params)
    (hflash : Memory.wf (flashBlank s.params) s.params.flashSize s.flash = true) (hop : s.flashOp = none)
    (heop : s.eepromOp = none) (hc : s.FpeCalled) (hst : s.fpe.state = .enter) (hmode : s.fpe.mode = .merge)
    (hfits : s.fpe.pb.toNat + 64 ≤ s.params.flashSize) (hin : s.inputs = en :: as :: ic :: es)
    (hq : AllQuiet [en, as, ic]) :
    Reaches 3 (FpeStage (intercepted (assembled (fpeEnter s))) .erase none es) s := by
  obtain ⟨hqe, hq⟩ := List.forall_mem_cons.mp hq
  obtain ⟨hqa, hq⟩ := List.forall_mem_cons.mp hq
  have henter : step s = .next (fpeEnter s).idleTick := by
    rw [step_fpe_idle hv hop heop hc hin hqe, fpeTick_state _ s.idleTick .enter hst]
    rfl
  have hst' : (fpeEnter s).fpe.state = .assemble := by simp [fpeEnter, hmode]
  obtain ⟨a, hassemble⟩ := fpeAssemble_eq (s := (fpeEnter s).idleTick.idleTick) hfits
  rw [assembled_idleTick (s := (fpeEnter s).idleTick) hop, assembled_idleTick (s := fpeEnter s) hop] at hassemble
  generalize hu : (assembled (fpeEnter s)).idleTick.idleTick.driveRdaddr a = u at hassemble
  have hstep : step (fpeEnter s).idleTick = .next u := by
    rw [step_fpe_idle (s := (fpeEnter s).idleTick) hv hop heop hc (congrArg (List.drop 1) hin) hqa,
      fpeTick_state _ (fpeEnter s).idleTick.idleTick .assemble hst', hassemble]
  have hinu : u.inputs = ic :: es := by simp [← hu, State.idleTick, assembled, fpeEnter, hin]
  have hintercept : step u = .next (intercepted u.idleTick) := by
    rw [step_fpe_idle (hu ▸ hv) (hu ▸ hop) (hu ▸ heop) (hu ▸ hc) hinu (hq ic List.mem_cons_self),
      fpeTick_state _ u.idleTick .intercept (hu ▸ rfl), interceptTick_eq]
  exact .step henter (.step hstep (.step hintercept (.zero
    (.of_intercepted ⟨a, hu.symm⟩ hflash hop heop (by rw [hinu]; rfl)))))

/-! ## A Run from DECODE to HALTED -/

theorem le16_loByte_hiByte (w : Word) : le16 (loByte w) (hiByte w) = w := by
  rw [le16, loByte, hiByte, BitVec.extractLsb'_append_extractLsb'_eq_extractLsb' (by rfl), BitVec.extractLsb'_eq_self]

/-- The pointer's page lies right below BOOTLOADER_START (R66, R72). -/
theorem pageBase_pointerAddr_toNat {p : Params} (hv : ParamsValid p) :
    (pageBase (pointerAddr p)).toNat = p.blStart - 64 := by
  obtain ⟨haddr, -⟩ := pointerAddr_toNat hv
  obtain ⟨-, hsize, hpage, hlow, hhigh, -⟩ := hv
  rw [pageBase, BitVec.toNat_sub, BitVec.toNat_umod, haddr, show (64#16).toNat = 64 from rfl]
  omega

/-- The pointer's two bytes lie in one page of FLASH, as a MERGE asks (R168, R195). -/
theorem pointer_mergeRangeOk {p : Params} (hv : ParamsValid p) (w : Word) :
    MergeRangeOk p (pointerAddr p) (pointerData w).length := by
  obtain ⟨haddr, -⟩ := pointerAddr_toNat hv
  obtain ⟨-, -, hpage, hlow, hhigh, -⟩ := hv
  rw [MergeRangeOk, haddr, pointerData, List.length_cons, List.length_singleton]
  omega

/-- A Run whose merge of ENTRY_T into the pointer's page has started, after its ticks DECODE and EXIT_P (R226, R195). -/
def runStarted (s : State) : State :=
  (mergeStarted (pointerAddr s.params) (pointerData s.entryT) (s.goto .exitP)).idleTick.idleTick

/-- The ticks DECODE, EXIT_P and ENTER change no byte of FLASH. -/
theorem flashByte_enter_runStarted {s : State} (hop : s.flashOp = none) (x : Nat) :
    (fpeEnter (runStarted s)).flashByte x = s.flashByte x := by
  rw [flashByte_idle (s := fpeEnter (runStarted s)) hop, flashByte_idle hop]
  rfl

/-- A Run past INTERCEPT, but for the time ENTER, ASSEMBLE and INTERCEPT take (R162, R169, R163). -/
def persisting (s : State) : State := intercepted (assembled (fpeEnter (runStarted s)))

/-- FLASH[x] after a Run: ENTRY_T in the pointer's two bytes, and what it was elsewhere (R195). -/
def persistedByte (s : State) (x : Nat) : Byte :=
  if s.params.blStart - 2 ≤ x ∧ x < s.params.blStart - 2 + 2 then
    (pointerData s.entryT).getD (x - (s.params.blStart - 2)) 0
  else s.flashByte x

/-- The ticks DECODE and EXIT_P of a Run (R226, R195). -/
theorem run_reaches_started {f : Fields} {s : State} {d st : Inputs} {es : List Inputs} (hv : ParamsValid s.params)
    (hop : s.flashOp = none) (heop : s.eepromOp = none) (hseq : s.seq = .decode) (hok : s.rx.ok = true)
    (hidle : s.fpe.state = .idle) (hf : decodeFrame s.frame = .cmdRun f) (hin : s.inputs = d :: st :: es)
    (hq : AllQuiet [d, st]) : Reaches 2 (· = runStarted s) s := by
  obtain ⟨hqd, hq⟩ := List.forall_mem_cons.mp hq
  have hdecode : step s = .next (s.goto .exitP).idleTick := by
    rw [step_decode hv (now_cons hin ▸ hqd) hseq hok, hf, beginTick_idle _ hop heop]
    rfl
  have hstart : step (s.goto .exitP).idleTick = .next (runStarted s) := by
    rw [step_fpe_idle (s := (s.goto .exitP).idleTick) hv hop heop (.inr rfl) (congrArg (List.drop 1) hin)
      (hq st List.mem_cons_self), fpeTick_state _ (s.goto .exitP).idleTick.idleTick .idle hidle]
    exact startMerge_eq (pointer_mergeRangeOk hv s.entryT)
  exact .step hdecode (.step hstart (.zero rfl))

section
variable {s : State} (hv : ParamsValid s.params)
include hv

theorem persisting_pb_toNat : (persisting s).fpe.pb.toNat = s.params.blStart - 64 := pageBase_pointerAddr_toNat hv

theorem persisting_fits : (persisting s).fpe.pb.toNat + 64 ≤ s.params.flashSize := by
  rw [persisting_pb_toNat hv]
  obtain ⟨-, -, -, -, hsize, -⟩ := hv
  omega

/-- The pointer's page is not page 0, so nothing of a Run is intercepted (R191). -/
theorem not_intercepts_run : ¬(assembled (fpeEnter (runStarted s))).Intercepts := by
  rintro ⟨hpb, -⟩
  have hzero := (persisting_pb_toNat hv).symm.trans (congrArg BitVec.toNat hpb)
  obtain ⟨-, -, -, hlow, -⟩ := hv
  have hempty : s.params.blStart - 64 = 0 := hzero
  omega

theorem persisting_entryT : (persisting s).entryT = s.entryT := if_neg (not_intercepts_run hv)

theorem persisting_pbuf_eq : (persisting s).fpe.pbuf = Vector.ofFn (assembledByte (fpeEnter (runStarted s))) :=
  if_neg (not_intercepts_run hv)

/-- The page buffer of a Run holds the bytes of its page with ENTRY_T in the pointer's place (R169, R195). -/
theorem persisting_pbuf (hop : s.flashOp = none) {j : Nat} (h : j < 64) :
    (persisting s).fpe.pbuf[j] = persistedByte s (s.params.blStart - 64 + j) := by
  have hmrgA : (fpeEnter (runStarted s)).fpe.mrgA.toNat = s.params.blStart - 2 := (pointerAddr_toNat hv).1
  have hpb : (fpeEnter (runStarted s)).fpe.pb.toNat = s.params.blStart - 64 := persisting_pb_toNat hv
  have hlen : (fpeEnter (runStarted s)).fpe.mrgLen.toNat = 2 := rfl
  have hdata : (fpeEnter (runStarted s)).fpe.mrgData = overwrite s.fpe.mrgData (pointerData s.entryT) := rfl
  simp only [persisting_pbuf_eq hv, Vector.getElem_ofFn]
  obtain ⟨-, hsize, -, -, hhigh, -⟩ := hv
  rw [assembledByte_eq (by omega), hmrgA, hpb, hlen, hdata, flashByte_enter_runStarted hop, persistedByte]
  refine ite_congr rfl (fun hin => ?_) fun _ => rfl
  have hk : s.params.blStart - 64 + j - (s.params.blStart - 2) < (pointerData s.entryT).length := by
    simp only [pointerData, List.length_cons, List.length_nil]
    omega
  rw [overwrite_getD _ hk (by omega), List.getD_eq_getElem _ _ hk]

/-- A state whose FLASH is what a Run leaves has ENTRY_P = ENTRY_T (R193, R195, R196). -/
theorem entryP_of_persistedByte {t : State} (hparams : t.params = s.params)
    (hflash : ∀ x, t.flashByte x = persistedByte s x) : t.entryP = s.entryT := by
  obtain ⟨-, -, -, hlow, -⟩ := hv
  have hlo : persistedByte s (s.params.blStart - 2) = loByte s.entryT := by
    rw [persistedByte, if_pos (by omega), Nat.sub_self]
    rfl
  have hhi : persistedByte s (s.params.blStart - 1) = hiByte s.entryT := by
    rw [persistedByte, if_pos (by omega), show s.params.blStart - 1 - (s.params.blStart - 2) = 1 by omega]
    rfl
  rw [State.entryP, hparams, hflash, hflash, hlo, hhi, le16_loByte_hiByte]

/-- The first five ticks of a Run, DECODE to INTERCEPT (R226, R195, R162, R169, R163). -/
theorem run_reaches_erase {f : Fields} {d st en as ic : Inputs} {es : List Inputs} (harr : s.ArraysOk)
    (hop : s.flashOp = none) (heop : s.eepromOp = none) (hseq : s.seq = .decode) (hok : s.rx.ok = true)
    (hidle : s.fpe.state = .idle) (hf : decodeFrame s.frame = .cmdRun f)
    (hin : s.inputs = d :: st :: en :: as :: ic :: es) (hq : AllQuiet [d, st, en, as, ic]) :
    Reaches 5 (FpeStage (persisting s) .erase none es) s := by
  obtain ⟨hq2, hq3⟩ := List.forall_mem_append (l₁ := [d, st]).mp hq
  refine (run_reaches_started hv hop heop hseq hok hidle hf hin hq2).trans (n := 3) fun u hu => ?_
  rw [hu]
  exact merge_reaches_erase (s := runStarted s) hv harr.flash hop heop (.inr rfl) rfl rfl (persisting_fits hv)
    (congrArg (fun l => (l.drop 1).drop 1) hin) hq3

end

/-- DONE of a Run: the handoff to ENTRY_T (R166, R195). -/
theorem fpeDone_exitP {s : State} (h : s.seq = .exitP) : fpeDone s = (s.restoreGie.fpeGoto .idle).handoff s.entryT := by
  simp [fpeDone, h]

/-- Settles O44: the merge makes a page buffer with ENTRY_T in its last two bytes, the two commands put it in the pointer's
page, and DONE hands off. -/
theorem runPersistsAndHandsOff : Obligations.RunPersistsAndHandsOff := by
  intro f s d st en as ic dn er wr rest hv harr hop heop hseq hok hidle hf hin her hwr hq
  rw [show ([d, st, en, as, ic] ++ er ++ wr ++ [dn] : List Inputs) = [d, st, en, as, ic] ++ (er ++ (wr ++ [dn])) by
    simp] at hin hq
  obtain ⟨hq5, hqo⟩ := List.forall_mem_append.mp hq
  have hpb := persisting_pb_toNat hv
  have hstart := run_reaches_erase (es := er ++ (wr ++ dn :: rest)) hv harr hop heop hseq hok hidle hf
    (by simpa using hin) hq5
  obtain ⟨t, hrun, b, hb, hpage, ht⟩ := hstart.trans
    fun v hv' => hv'.erase_and_write hv (.inr rfl) (persisting_fits hv) her hwr hqo
  have hsame : SameArrays b t := ht ▸ fpeDone_sameArrays b
  refine ⟨t, (congrArg (run · s) (by omega)).trans hrun, ?_⟩
  have heeprom : ∀ a, t.eepromByte a = s.eepromByte a := fun a =>
    calc t.eepromByte a = b.eepromByte a := hsame.eeprom a
      _ = Memory.read eepromBlank s.eeprom a := hb.eepromByte_eq a
      _ = s.eepromByte a := (eepromByte_idle heop a).symm
  have hflash : ∀ x, t.flashByte x = persistedByte s x := by
    intro x
    rw [hsame.flash]
    by_cases hx : s.params.blStart - 64 ≤ x ∧ x < s.params.blStart - 64 + 64
    · have hbyte := hpage (x - (s.params.blStart - 64)) (by omega)
      rwa [hb.fpe, hpb, persisting_pbuf hv hop, Nat.add_sub_cancel' hx.1] at hbyte
    · have hout : ¬(s.params.blStart - 2 ≤ x ∧ x < s.params.blStart - 2 + 2) := by omega
      rw [hb.flashByte_outside (hpb ▸ hx), persistedByte, if_neg hout]
      exact (flashByte_idle hop x).symm
  have houtside : SameFlashOutside (s.params.blStart - 2) 2 s t := fun x hx => (hflash x).trans (if_neg hx)
  have hentryT : b.entryT = s.entryT := hb.entryT.trans (persisting_entryT hv)
  rw [fpeDone_exitP hb.seq] at ht
  subst ht
  have hentryP := entryP_of_persistedByte hv hb.params hflash
  exact ⟨rfl, rfl, hentryT, hentryP, hentryT, hb.ev, hb.gieSave, hb.flashOp, hb.inputs, heeprom, houtside⟩

end Sys2Proof.Machine
end

section
/-! SUPPORT. The command family: a command whose row of the opcode table fixes all 8 bits comes from that byte alone (R96),
so a frame with any byte but 2, 3 and 4 has no effect (R97, R223, R224, R228, R229). -/

namespace Sys2Proof

/-- A row that fixes all 8 bits selects its own pattern only (R96). -/
theorem Instr.RowSelects.byte_eq {i : Instr} {c p : Byte} (h : i.RowSelects c) (hrow : i.cmdRow = some ⟨0xFF, p⟩) :
    c = p := by
  obtain ⟨r, -, hr, hsel⟩ := h
  obtain rfl : r = ⟨0xFF, p⟩ := Option.some.inj (hr.symm.trans hrow)
  exact BitVec.and_allOnes.symm.trans (CmdRow.selects_iff.mp hsel)

/-- An instruction whose row fixes all 8 bits is decoded from that byte only (R96, R101). -/
theorem byte_eq_of_decodeCmd {c p : Byte} {f : Fields} {i : Instr} (h : decodeCmd c f = i)
    (hrow : i.cmdRow = some ⟨0xFF, p⟩) : c = p :=
  (h ▸ decodeCmd_rowSelects c f).byte_eq hrow

namespace Machine

/-- The three command bytes with an effect are 2, 3 and 4 (R225, R226, R227). -/
theorem exec_decodeCmd_no_effect {c : Byte} (f : Fields) (s : State) (h2 : c ≠ 0x02) (h3 : c ≠ 0x03) (h4 : c ≠ 0x04) :
    exec (decodeCmd c f) s = .next (s.goto .clear) := by
  obtain h | ⟨hprogram, -⟩ | ⟨hrun, -⟩ | ⟨heeprom, -⟩ := exec_decodeCmd_cases c f s
  · exact h
  · exact absurd (byte_eq_of_decodeCmd hprogram rfl) h2
  · exact absurd (byte_eq_of_decodeCmd hrun rfl) h3
  · exact absurd (byte_eq_of_decodeCmd heeprom rfl) h4

/-- Settles O8: each of the nine commands is `noEffect`, and the decoder answers a command with an effect for the bytes 2, 3
and 4 only. -/
theorem noEffectCommandsOnlyContinue : Obligations.NoEffectCommandsOnlyContinue := by
  intro f s
  exact ⟨rfl, rfl, rfl, fun _ => rfl, fun _ => rfl, fun _ => rfl, fun _ => rfl, fun _ => rfl, fun _ => rfl,
    fun fr h2 h3 h4 => exec_decodeCmd_no_effect (decodeFields fr) s h2 h3 h4⟩

end Machine
end Sys2Proof
end

section
/-! SUPPORT. The boot sequencer: BOOT_START on the begun tick (R282). -/

namespace Sys2Proof.Machine

/-- A quiet BOOT_START tick is BSQ's rule on the begun tick (R282). -/
theorem step_bootStart {s : State} (hv : ParamsValid s.params) (hq : s.now.event = .quiet) (hseq : s.seq = .bootStart) :
    step s = .next (bootStart s.now (s.beginTick s.now)) := by
  rw [step_active hv hq, activeRule_seq _ _ .bootStart ((beginTick_seq ..).trans hseq)]

/-- Settles O25: the rule appends STATUS_ON to the begun tick's events, and beginning a tick emits none. -/
theorem bootStartSamplesTheHoldLevel : Obligations.BootStartSamplesTheHoldLevel := by
  intro s hv hq hseq
  rw [step_bootStart hv hq hseq, ← beginTick_ev s s.now]
  rfl

end Sys2Proof.Machine
end

section
/-! SUPPORT. The encoding family, both ways: a frame is the encoding of the instruction it decodes to, and decoding an
encoding gives the instruction back (R94 to R97, R104 to R108). -/

namespace Sys2Proof

open Machine

/-! ## Bytes of a word, bytes of a frame -/

theorem loByte_le16 (b0 b1 : Byte) : loByte (le16 b0 b1) = b0 := BitVec.extractLsb'_append_eq_right

theorem hiByte_le16 (b0 b1 : Byte) : hiByte (le16 b0 b1) = b1 := BitVec.extractLsb'_append_eq_left

/-- A word is determined by its two bytes (R63). -/
theorem word_eq_of_bytes {w w' : Word} (hlo : loByte w = loByte w') (hhi : hiByte w = hiByte w') : w = w' := by
  rw [← le16_loByte_hiByte w, hlo, hhi, le16_loByte_hiByte]

/-- The decoder's buffer holds exactly the bytes it is given (R94, R98). -/
theorem frameOfBytes_eq_some {bs : List Byte} {fr : FrameBuf} : frameOfBytes bs = some fr ↔ bs = fr.toList := by
  unfold frameOfBytes
  split
  next h =>
    rw [Option.some_inj, Vector.toList, ← Vector.toArray_inj]
    exact Array.toList_inj.symm
  next h => exact ⟨fun h' => by contradiction, fun h' => absurd (h' ▸ fr.length_toList) h⟩

theorem frameOfBytes_toList (fr : FrameBuf) : frameOfBytes fr.toList = some fr := frameOfBytes_eq_some.mpr rfl

/-- The bytes of a frame are its command byte and its fields, encoded (R94, R95). -/
theorem encodeFields_decodeFields (fr : FrameBuf) : encodeFields fr[0] (decodeFields fr) = fr.toList := by
  refine List.ext_getElem (by simp [encodeFields]) fun i h _ => ?_
  simp only [encodeFields, decodeFields, loByte_le16, hiByte_le16]
  match i with
  | 0 | 1 | 2 | 3 | 4 | 5 | 6 => simp
  | j + 7 => simp [Nat.add_comm]

/-- No two frames with different command bytes or fields have the same bytes (R94). -/
theorem encodeFields_inj {c c' : Byte} {f f' : Fields} (h : encodeFields c f = encodeFields c' f') : c = c' ∧ f = f' := by
  simp only [encodeFields, List.cons_append, List.nil_append, List.cons.injEq, Vector.toList_inj] at h
  obtain ⟨hc, hp0, hp1, hl0, hl1, hs0, hs1, hpay⟩ := h
  refine ⟨hc, ?_⟩
  cases f
  cases f'
  rw [Fields.mk.injEq]
  exact ⟨word_eq_of_bytes hp0 hp1, word_eq_of_bytes hl0 hl1, word_eq_of_bytes hs0 hs1, hpay⟩

theorem decode_frame_toList (p : Params) (fr : FrameBuf) : decode p .frame fr.toList = .ok (decodeFrame fr) := by
  simp only [decode, frameOfBytes_toList]

/-- The decoder finds the command byte and the fields of a frame (R94, R95). -/
theorem decode_encodeFields (p : Params) (c : Byte) (f : Fields) :
    decode p .frame (encodeFields c f) = .ok (decodeCmd c f) := by
  obtain ⟨fr, hfr⟩ : ∃ fr : FrameBuf, encodeFields c f = fr.toList :=
    ⟨⟨(encodeFields c f).toArray, Laws.EncodeLength.encodeFields_length c f⟩, rfl⟩
  obtain ⟨rfl, rfl⟩ := encodeFields_inj (hfr.trans (encodeFields_decodeFields fr).symm)
  rw [hfr, decode_frame_toList, decodeFrame]

/-! ## The command byte -/

section
variable (f : Fields)

/-- Above 0x05 the leading bits of the command byte select the row (R97). -/
theorem decodeCmd_unrecognised {c : Byte} (h : 0x05 < c) :
    decodeCmd c f =
      if c &&& 0xF8 = 0x08 then .cmd08To0F (c.extractLsb' 0 3) f
      else if c &&& 0xF0 = 0x10 then .cmd10To1F (c.extractLsb' 0 4) f
      else if c &&& 0xE0 = 0x20 then .cmd20To3F (c.extractLsb' 0 5) f
      else if c &&& 0xC0 = 0x40 then .cmd40To7F (c.extractLsb' 0 6) f
      else if c &&& 0x80 = 0x80 then .cmd80ToFF (c.extractLsb' 0 7) f
      else .cmd06To07 (c.extractLsb' 0 1) f := by
  have hne : ∀ k : Byte, k ≤ 0x05 → c ≠ k := fun k hk => by bv_omega
  rw [decodeCmd, if_neg (hne _ (by decide)), if_neg (hne _ (by decide)), if_neg (hne _ (by decide)),
    if_neg (hne _ (by decide)), if_neg (hne _ (by decide)), if_neg (hne _ (by decide))]

theorem decodeCmd_06To07 (b : BitVec 1) : decodeCmd (0b0000011#7 ++ b) f = .cmd06To07 b f := by
  rw [decodeCmd_unrecognised f (by decide +revert), if_neg (by decide +revert), if_neg (by decide +revert),
    if_neg (by decide +revert), if_neg (by decide +revert), if_neg (by decide +revert),
    BitVec.extractLsb'_append_eq_right]

theorem decodeCmd_08To0F (b : BitVec 3) : decodeCmd (0b00001#5 ++ b) f = .cmd08To0F b f := by
  rw [decodeCmd_unrecognised f (by decide +revert), if_pos (by decide +revert), BitVec.extractLsb'_append_eq_right]

theorem decodeCmd_10To1F (b : BitVec 4) : decodeCmd (0b0001#4 ++ b) f = .cmd10To1F b f := by
  rw [decodeCmd_unrecognised f (by decide +revert), if_neg (by decide +revert), if_pos (by decide +revert),
    BitVec.extractLsb'_append_eq_right]

theorem decodeCmd_20To3F (b : BitVec 5) : decodeCmd (0b001#3 ++ b) f = .cmd20To3F b f := by
  rw [decodeCmd_unrecognised f (by decide +revert), if_neg (by decide +revert), if_neg (by decide +revert),
    if_pos (by decide +revert), BitVec.extractLsb'_append_eq_right]

theorem decodeCmd_40To7F (b : BitVec 6) : decodeCmd (0b01#2 ++ b) f = .cmd40To7F b f := by
  rw [decodeCmd_unrecognised f (by decide +revert), if_neg (by decide +revert), if_neg (by decide +revert),
    if_neg (by decide +revert), if_pos (by decide +revert), BitVec.extractLsb'_append_eq_right]

theorem decodeCmd_80ToFF (b : BitVec 7) : decodeCmd (0b1#1 ++ b) f = .cmd80ToFF b f := by
  rw [decodeCmd_unrecognised f (by decide +revert), if_neg (by decide +revert), if_neg (by decide +revert),
    if_neg (by decide +revert), if_neg (by decide +revert), if_pos (by decide +revert),
    BitVec.extractLsb'_append_eq_right]

end

/-! ## Relative jumps -/

theorem isRjmp_rjmpWord (k : BitVec 12) : isRjmp (rjmpWord k) = true :=
  beq_iff_eq.mpr BitVec.extractLsb'_append_eq_left

theorem decode_wordBytes (p : Params) (w : Word) : decode p .hostWord (wordBytes w) = decodeHostWord p w := by
  rw [← congrArg (decodeHostWord p) (le16_loByte_hiByte w)]
  rfl

/-- A relative jump that is not ENTRY_JUMP_WORD is read back with its offset (R104, R106). -/
theorem decodeHostWord_rjmpWord {p : Params} {k : BitVec 12} (h : rjmpWord k ≠ entryJumpWord p) :
    decodeHostWord p (rjmpWord k) = .ok (.rjmp k) := by
  rw [decodeHostWord, if_neg h, if_pos (isRjmp_rjmpWord k), rjmpWord, BitVec.extractLsb'_append_eq_right]

theorem decodeHostWord_entryJumpWord (p : Params) : decodeHostWord p (entryJumpWord p) = .ok .entryJumpWord := if_pos rfl

/-! ## The round trips -/

/-- Settles O1: the fields come back from any frame, and each row of the table selects its own command bytes. -/
theorem decodeEncodeRoundTrip : Obligations.DecodeEncodeRoundTrip := by
  intro p i hwf
  cases i with
  | cmdNone f => exact decode_encodeFields p 0x00 f
  | cmdTest f => exact decode_encodeFields p 0x01 f
  | cmdProgram f => exact decode_encodeFields p 0x02 f
  | cmdRun f => exact decode_encodeFields p 0x03 f
  | cmdWriteEeprom f => exact decode_encodeFields p 0x04 f
  | cmdExit f => exact decode_encodeFields p 0x05 f
  | cmd06To07 b f => exact (decode_encodeFields ..).trans (congrArg _ (decodeCmd_06To07 f b))
  | cmd08To0F b f => exact (decode_encodeFields ..).trans (congrArg _ (decodeCmd_08To0F f b))
  | cmd10To1F b f => exact (decode_encodeFields ..).trans (congrArg _ (decodeCmd_10To1F f b))
  | cmd20To3F b f => exact (decode_encodeFields ..).trans (congrArg _ (decodeCmd_20To3F f b))
  | cmd40To7F b f => exact (decode_encodeFields ..).trans (congrArg _ (decodeCmd_40To7F f b))
  | cmd80ToFF b f => exact (decode_encodeFields ..).trans (congrArg _ (decodeCmd_80ToFF f b))
  | rjmp k => exact (decode_wordBytes ..).trans (decodeHostWord_rjmpWord (bne_iff_ne.mp hwf))
  | entryJumpWord => exact (decode_wordBytes ..).trans (decodeHostWord_entryJumpWord p)

/-- The instruction is a well-formed frame command with the bytes of command byte c and fields f. -/
structure Instr.EncodesFrame (p : Params) (c : Byte) (f : Fields) (i : Instr) : Prop where
  format : i.format = .frame
  bytes : encode p i = encodeFields c f
  wellFormed : i.WellFormed p = true

/-- A test of the decoder: each branch has to answer for its own bytes only. -/
theorem Instr.EncodesFrame.ite {p : Params} {c : Byte} {f : Fields} {i j : Instr} {P : Prop} [Decidable P]
    (hi : P → i.EncodesFrame p c f) (hj : ¬P → j.EncodesFrame p c f) : (if P then i else j).EncodesFrame p c f :=
  iteInduction hi hj

/-- A command byte is the fixed bits of its row followed by the bits that the row leaves open (R97). -/
theorem fixed_bits_append_open_bits (c : Byte) :
    (c &&& 0xF8 = 0x08 → 0b00001#5 ++ c.extractLsb' 0 3 = c) ∧
    (c &&& 0xF0 = 0x10 → 0b0001#4 ++ c.extractLsb' 0 4 = c) ∧
    (c &&& 0xE0 = 0x20 → 0b001#3 ++ c.extractLsb' 0 5 = c) ∧
    (c &&& 0xC0 = 0x40 → 0b01#2 ++ c.extractLsb' 0 6 = c) ∧
    (c &&& 0x80 = 0x80 → 0b1#1 ++ c.extractLsb' 0 7 = c) ∧
    (c &&& 0xFE = 0x06 → 0b0000011#7 ++ c.extractLsb' 0 1 = c) := by decide +revert

/-- The decoder drops no bit of a command byte (R96, R97, R101). -/
theorem decodeCmd_encodesFrame (p : Params) (c : Byte) (f : Fields) : (decodeCmd c f).EncodesFrame p c f := by
  obtain ⟨b08, b10, b20, b40, b80, b06⟩ := fixed_bits_append_open_bits c
  unfold decodeCmd
  refine .ite (fun h => ⟨rfl, by rw [h]; rfl, rfl⟩) fun h0 => ?_
  refine .ite (fun h => ⟨rfl, by rw [h]; rfl, rfl⟩) fun h1 => ?_
  refine .ite (fun h => ⟨rfl, by rw [h]; rfl, rfl⟩) fun h2 => ?_
  refine .ite (fun h => ⟨rfl, by rw [h]; rfl, rfl⟩) fun h3 => ?_
  refine .ite (fun h => ⟨rfl, by rw [h]; rfl, rfl⟩) fun h4 => ?_
  refine .ite (fun h => ⟨rfl, by rw [h]; rfl, rfl⟩) fun h5 => ?_
  refine .ite (fun h => ⟨rfl, congrArg (encodeFields · f) (b08 h), rfl⟩) fun h08 => ?_
  refine .ite (fun h => ⟨rfl, congrArg (encodeFields · f) (b10 h), rfl⟩) fun h10 => ?_
  refine .ite (fun h => ⟨rfl, congrArg (encodeFields · f) (b20 h), rfl⟩) fun h20 => ?_
  refine .ite (fun h => ⟨rfl, congrArg (encodeFields · f) (b40 h), rfl⟩) fun h40 => ?_
  refine .ite (fun h => ⟨rfl, congrArg (encodeFields · f) (b80 h), rfl⟩) fun h80 => ?_
  have h05 : 0x05 < c := by bv_omega
  exact ⟨rfl, congrArg (encodeFields · f) (b06 (and_FE_of_no_other_row c h05 h08 h10 h20 h40 h80)), rfl⟩

/-- The bytes that decode as a frame are the 71 bytes of one (R98). -/
theorem decode_frame_ok {p : Params} {bs : List Byte} {i : Instr} (h : decode p .frame bs = .ok i) :
    ∃ fr : FrameBuf, bs = fr.toList ∧ i = decodeFrame fr := by
  simp only [decode] at h
  split at h
  next fr hfr => exact ⟨fr, frameOfBytes_eq_some.mp hfr, (Except.ok.inj h).symm⟩
  next => cases h

/-- The bytes that decode as a host word are the two of a word (R104). -/
theorem decode_hostWord_ok {p : Params} {bs : List Byte} {i : Instr} (h : decode p .hostWord bs = .ok i) :
    ∃ w : Word, bs = wordBytes w ∧ decodeHostWord p w = .ok i := by
  simp only [decode] at h
  split at h
  next b0 b1 => exact ⟨le16 b0 b1, by rw [wordBytes, loByte_le16, hiByte_le16], h⟩
  next => cases h

/-- Settles O2: a frame is encoded by the row of its command byte, and a host word by its own name. -/
theorem encodeDecodeRoundTrip : Obligations.EncodeDecodeRoundTrip := by
  intro p fmt bs i h
  cases fmt with
  | frame =>
    obtain ⟨fr, rfl, rfl⟩ := decode_frame_ok h
    obtain ⟨hformat, hbytes, hwf⟩ := decodeCmd_encodesFrame p fr[0] (decodeFields fr)
    exact ⟨hformat, hbytes.trans (encodeFields_decodeFields fr), hwf⟩
  | hostWord =>
    obtain ⟨w, rfl, hw⟩ := decode_hostWord_ok h
    obtain ⟨-, ⟨rfl, rfl⟩ | ⟨rfl, hne, hword⟩⟩ := decodeHostWord_ok hw
    · exact ⟨rfl, rfl, rfl⟩
    · exact ⟨rfl, congrArg wordBytes hword, bne_iff_ne.mpr (hword.symm ▸ hne)⟩

/-- Settles O4: each word is decoded as it stands. -/
theorem tableWordsDecode : Obligations.TableWordsDecode :=
  ⟨⟨_, rfl, by decide⟩, ⟨_, rfl⟩, ⟨_, rfl⟩, rfl, rfl, rfl⟩

/-! ## The reach of ENTRY_JUMP_WORD -/


/-- The offset of ENTRY_JUMP_WORD is the distance to the entry, in 12 bits (R104, R108). -/
theorem entryJumpWord_offset (p : Params) :
    (entryJumpWord p).extractLsb' 0 12 = BitVec.ofInt 12 ((p.blEntry / 2 : Nat) - 1) := by
  have hmarker : BitVec.extractLsb' 0 12 (0xC000#16) = 0#12 := by decide
  rw [entryJumpWord, encodeRjmp, BitVec.extractLsb'_or, hmarker, BitVec.zero_or]
  apply BitVec.eq_of_toNat_eq
  simp only [BitVec.extractLsb'_toNat, BitVec.toNat_ofInt, Nat.shiftRight_zero]
  omega

/-- The target of ENTRY_JUMP_WORD at word 0 differs from the entry by a multiple of 4096 words (R107, R108). -/
theorem rjmpTarget_entryJumpWord {p : Params} (h : flashWords p ∣ 4096) :
    rjmpTarget p (entryJumpWord p) 0 = BitVec.ofInt 16 ((p.blEntry / 2 : Nat) % (flashWords p : Int)) := by
  have hmod : ((p.blEntry / 2 : Nat) - 1 : Int).bmod (2 ^ 12) ≡ (p.blEntry / 2 : Nat) - 1 [ZMOD flashWords p] :=
    .of_dvd (Int.natCast_dvd_natCast.mpr h) Int.bmod_emod
  rw [rjmpTarget, entryJumpWord_offset, BitVec.toInt_ofInt]
  refine congrArg _ ((hmod.add_left _).trans ?_)
  simp

/-- Settles O6: modulo FLASH_WORDS the target is the entry, which lies inside the flash. -/
theorem entryJumpReachesTheEntry : Obligations.EntryJumpReachesTheEntry := by
  rintro p hsize hdvd - hin
  have hlt : p.blEntry / 2 < flashWords p := by
    unfold flashWords
    omega
  rw [rjmpTarget_entryJumpWord hdvd, Int.emod_eq_of_lt (by omega) (by omega), entryWordAddr, BitVec.ofInt_natCast]

end Sys2Proof
end

section
/-! SUPPORT. The tick: what a step is for each event it may carry (R257, R280, U9, U15), the controllers' part of a tick
(R64, R67, R68), and the ticks of DECODE, INTERCEPT, CLEAR and the terminal states. -/

namespace Sys2Proof.Machine

/-! ## The events of a tick -/

section
variable {s : State}

theorem step_badParams (hv : ¬ParamsValid s.params) : step s = .refused .badParams := if_neg hv

/-- A reset wins at any tick (R257). -/
theorem step_reset (hv : ParamsValid s.params) (he : s.now.event = .reset) : step s = .next (s.takeReset s.now) := by
  rw [step, if_pos hv, he]

/-- Control that reaches the entry by another route starts the block where the CPU runs something else (R280). -/
theorem step_entry (hv : ParamsValid s.params) (he : s.now.event = .entry) (hc : s.seq.cpuElsewhere = true) :
    step s = .next (s.takeEntry s.now) := by
  rw [step, if_pos hv, he]
  exact if_pos hc

theorem step_entry_running (hv : ParamsValid s.params) (he : s.now.event = .entry) (hc : s.seq.cpuElsewhere = false) :
    step s = ruleTick s.now s := by
  rw [step, if_pos hv, he]
  exact if_neg (by simp [hc])

theorem step_interrupt_taken (hv : ParamsValid s.params) (he : s.now.event = .interrupt) (hg : s.gie = true)
    (ht : s.seq.terminal = false) : step s = .refused .interruptTaken := by
  rw [step, if_pos hv, he]
  exact if_pos (by simp [hg, ht])

/-- An interrupt that is masked, or that meets a terminal state, leaves the tick a quiet one (R256). -/
theorem step_interrupt_ignored (hv : ParamsValid s.params) (he : s.now.event = .interrupt)
    (h : s.gie = false ∨ s.seq.terminal = true) : step s = ruleTick s.now s := by
  rw [step, if_pos hv, he]
  exact if_neg (by obtain h | h := h <;> simp [h])

/-- A quiet tick with FPE called is FPE's (R160). -/
theorem step_fpe_now (hv : ParamsValid s.params) (hq : s.now.event = .quiet) (hc : s.FpeCalled) :
    step s = fpeTick s.now (s.beginTick s.now) := by
  rw [step_active hv hq]
  obtain hseq | hseq := hc <;> rw [activeRule_seq _ _ _ ((beginTick_seq ..).trans hseq)]

end

/-- Settles O51: three branches of the step. -/
theorem refusalsOfTheStep : Obligations.RefusalsOfTheStep := fun _ =>
  ⟨step_badParams, step_interrupt_taken, fun hv he hg => step_interrupt_ignored hv he (.inl hg)⟩

/-! ## Bytes outside an operation -/

section
variable {s : State} {e : Inputs}

/-- A byte outside the page under operation reads as the array holds it (R64). -/
theorem flashByte_outside_op {a : Nat} (h : ∀ op, s.flashOp = some op → ¬(op.pb.toNat ≤ a ∧ a < op.pb.toNat + 64)) :
    s.flashByte a = Memory.read (flashBlank s.params) s.flash a := by
  cases hop : s.flashOp with
  | none => exact flashByte_idle hop a
  | some op => simp [State.flashByte, hop, FlashOp.covers, h op hop]

/-- A byte that is not the one under a write reads as the array holds it (R68). -/
theorem eepromByte_outside_op {a : Nat} (h : ∀ op, s.eepromOp = some op → a ≠ eepromClamp op.addr) :
    s.eepromByte a = Memory.read eepromBlank s.eeprom a := by
  cases hop : s.eepromOp with
  | none => exact eepromByte_idle hop a
  | some op => simp [State.eepromByte, hop, h op hop]

theorem opInFlash_of_some {op : FlashOp} (h : s.OpInFlash) (hop : s.flashOp = some op) :
    op.pb.toNat + 64 ≤ s.params.flashSize := by
  simpa only [State.OpInFlash, hop] using h

/-- The flash controller changes the page of its operation only (R64). -/
theorem read_flashController (harr : s.ArraysOk) {a : Nat}
    (h : ∀ op, s.flashOp = some op → ¬(op.pb.toNat ≤ a ∧ a < op.pb.toNat + 64)) :
    Memory.read (flashBlank s.params) (s.flashController e).flash a = Memory.read (flashBlank s.params) s.flash a := by
  cases hop : s.flashOp with
  | none => rw [flashController_idle hop]
  | some op =>
    cases he : e.flBusy with
    | true => rw [flashController_busy he]
    | false => rw [flashController_free hop he, read_putPage harr.flash (opInFlash_of_some harr.op hop), if_neg (h op hop)]

/-- The flash controller has the operation it had, or none (R64). -/
theorem flashOp_of_flashController {op : FlashOp} (h : (s.flashController e).flashOp = some op) : s.flashOp = some op := by
  cases hop : s.flashOp with
  | none => rwa [flashController_idle hop, hop] at h
  | some op' =>
    cases he : e.flBusy with
    | true => rwa [flashController_busy he, hop] at h
    | false =>
      rw [flashController_free hop he] at h
      cases h

/-- A tick begun leaves every byte outside the page under operation as it was (R64). -/
theorem flashByte_beginTick (harr : s.ArraysOk) {a : Nat}
    (h : ∀ op, s.flashOp = some op → ¬(op.pb.toNat ≤ a ∧ a < op.pb.toNat + 64)) :
    (s.beginTick e).flashByte a = s.flashByte a := by
  rw [flashByte_outside_op h, flashByte_outside_op fun op hop => h op (flashOp_of_flashController (e := e) (by simpa using hop)),
    beginTick_params, beginTick_flash, read_flashController harr h]

/-- While ee_busy reads 1 nothing completes (R68). -/
theorem eepromCollaborator_busy (h : e.eeBusy = true) : s.eepromCollaborator e = s := by
  cases hop : s.eepromOp with
  | none => exact eepromCollaborator_idle hop
  | some op => simp [State.eepromCollaborator, hop, h]

/-- The first tick at which ee_busy reads 0 completes the write (R68). -/
theorem eepromCollaborator_free {op : EepromOp} (hop : s.eepromOp = some op) (h : e.eeBusy = false) :
    s.eepromCollaborator e =
      { s with eeprom := Memory.write eepromBlank s.eeprom (eepromClamp op.addr) op.data, eepromOp := none } := by
  simp [State.eepromCollaborator, hop, h]

/-- With no operation in progress a tick begun leaves both arrays alone. -/
theorem sameArrays_beginTick (hop : s.flashOp = none) (heop : s.eepromOp = none) : SameArrays s (s.beginTick e) where
  flash a := flashByte_beginTick_idle hop a
  eeprom a := by
    rw [eepromByte_idle heop, eepromByte_idle] <;> simp [eepromCollaborator_idle heop, heop]
  flashOp := by simp [flashController_idle hop]
  eepromOp := by simp [eepromCollaborator_idle heop]

theorem SameArrays.trans {t u : State} (h : SameArrays s t) (h' : SameArrays t u) : SameArrays s u where
  flash a := (h'.flash a).trans (h.flash a)
  eeprom a := (h'.eeprom a).trans (h.eeprom a)
  flashOp := h'.flashOp.trans h.flashOp
  eepromOp := h'.eepromOp.trans h.eepromOp

theorem timePasses_beginTick : TimePasses s (s.beginTick e) :=
  ⟨beginTick_params .., beginTick_inputs .., beginTick_tick ..⟩

theorem sameGie_beginTick : SameGie s (s.beginTick e) := ⟨beginTick_gie .., beginTick_gieSave ..⟩

end

/-- Settles O16: field by field, and the arrays with no operation in progress. -/
theorem beginTickPassesTime : Obligations.BeginTickPassesTime := by
  intro e s
  exact ⟨by simp, beginTick_ports .., timePasses_beginTick, sameGie_beginTick, beginTick_seq .., beginTick_rx ..,
    beginTick_frame .., beginTick_fpe .., beginTick_entryT .., beginTick_ee .., beginTick_bsq .., beginTick_ev ..,
    sameArrays_beginTick⟩

/-- The 64 bytes that a completed operation leaves (R64, R65). -/
theorem FlashOp.result_getElem (op : FlashOp) (p : Params) {j : Nat} (h : j < 64) :
    (op.result p)[j] =
      match op with
      | .erase _ => p.erasedByte
      | .write _ data => data[j] := by
  cases op <;> simp [FlashOp.result]

/-- Settles O17: a busy tick keeps the operation, and the first free one puts its result in the page. -/
theorem flashControllerContract : Obligations.FlashControllerContract := by
  intro s e op harr hop
  have hout : SameFlashOutside op.pb.toNat 64 s (s.beginTick e) := fun x hx =>
    flashByte_beginTick harr fun op' hop' => by rwa [← Option.some.inj (hop.symm.trans hop')]
  refine ⟨fun he => ⟨by simp [flashController_busy he, hop], hout⟩, fun he => ?_⟩
  have hidle : (s.beginTick e).flashOp = none := by simp [flashController_free hop he]
  refine ⟨hidle, hout, fun j hj => ?_⟩
  rw [flashByte_idle hidle, beginTick_params, beginTick_flash, flashController_free hop he,
    read_putPage harr.flash (opInFlash_of_some harr.op hop), if_pos (by omega), Nat.add_sub_cancel_left,
    List.getD_eq_getElem _ _ (by simpa using hj), Vector.getElem_toList]
  exact op.result_getElem s.params hj

/-- Settles O18: a busy tick keeps the write, and the first free one writes its byte. -/
theorem eepromCollaboratorContract : Obligations.EepromCollaboratorContract := by
  intro s e a v harr hop
  have hclamp : eepromClamp a = min a.toNat 511 := rfl
  rw [← hclamp]
  cases he : e.eeBusy with
  | true =>
    have hheld : (s.beginTick e).eepromOp = s.eepromOp ∧ (s.beginTick e).eeprom = s.eeprom := by
      simp [eepromCollaborator_busy he]
    refine ⟨fun x hx => ?_, fun _ => hheld.1.trans hop, fun h => by contradiction⟩
    have hx' : ∀ op, s.eepromOp = some op → x ≠ eepromClamp op.addr := fun op hop' =>
      Option.some.inj (hop.symm.trans hop') ▸ hx
    rw [eepromByte_outside_op hx', eepromByte_outside_op (hheld.1.symm ▸ hx'), hheld.2]
  | false =>
    have hidle : (s.beginTick e).eepromOp = none := by simp [eepromCollaborator_free hop he]
    have hread : ∀ x, (s.beginTick e).eepromByte x = if x = eepromClamp a then v else Memory.read eepromBlank s.eeprom x := by
      intro x
      rw [eepromByte_idle hidle, beginTick_eeprom, eepromCollaborator_free hop he, Memory.read_write harr.eeprom]
    refine ⟨fun x hx => ?_, fun h => by contradiction, fun _ => ⟨hidle, by rw [hread, if_pos rfl]⟩⟩
    rw [hread, if_neg hx, eepromByte_outside_op fun op hop' => Option.some.inj (hop.symm.trans hop') ▸ hx]

/-! ## DECODE, INTERCEPT, CLEAR and the terminal states -/

/-- Settles O14: a quiet DECODE tick of a frame received well runs the command. -/
theorem decodeStepRunsTheReceivedFrame : Obligations.DecodeStepRunsTheReceivedFrame := fun _ => step_decode

/-- Settles O22: the reception check comes before the command. -/
theorem failedReceptionRaisesFatal : Obligations.FailedReceptionRaisesFatal := by
  intro s hv hq hseq hok
  rw [step_active hv hq, activeRule_seq _ _ .decode ((beginTick_seq ..).trans hseq), decodeTick, beginTick_rx, hok,
    ← beginTick_ev s s.now]
  rfl

/-- INTERCEPT runs the instruction that the buffer of page 0 starts with (R163). -/
theorem interceptTick_of_decode {s : State} {i : Instr} (hpb : s.fpe.pb = 0)
    (hi : decodeHostWord s.params (word0 s.fpe.pbuf) = .ok i) : interceptTick s = exec i s := by
  simp [interceptTick, interceptFetch, hpb, hi, Except.toOption]

/-- INTERCEPT passes where there is nothing to intercept (R163, R191). -/
theorem interceptTick_of_not_intercepts {s : State} (h : s.fpe.pb ≠ 0 ∨ isRjmp (word0 s.fpe.pbuf) = false) :
    interceptTick s = .next (interceptSkip s) := by
  obtain ⟨hpb, hr, -⟩ | ⟨-, hskip⟩ := interceptTick_cases s
  · exact (h.elim (· hpb) (by simp [hr])).elim
  · exact hskip

/-- Settles O15: FPE's tick at INTERCEPT, on the begun tick's page buffer. -/
theorem interceptStepRunsTheHostWord : Obligations.InterceptStepRunsTheHostWord := by
  intro s hv hq hc hst
  rw [step_fpe_now hv hq hc, fpeTick_state _ _ .intercept (by simpa using hst)]
  refine ⟨fun i hpb hi => ?_, fun h => ?_⟩
  · refine interceptTick_of_decode (by rwa [beginTick_fpe]) ?_
    rwa [beginTick_params, beginTick_fpe]
  · rw [interceptTick_of_not_intercepts (by rwa [beginTick_fpe]), interceptSkip, State.fpeGoto, beginTick_fpe]

/-- Settles O23: CLEAR writes one byte of the begun tick's FRAME. -/
theorem clearResetsTheCommandByte : Obligations.ClearResetsTheCommandByte := by
  intro s hv hq hseq
  generalize hb : s.beginTick s.now = b
  have hstep : step s = .next (csqClear b) := by
    rw [step_active hv hq, hb, activeRule_seq _ _ .clear (hb ▸ (beginTick_seq ..).trans hseq)]
  have htime : TimePasses s b := hb ▸ timePasses_beginTick
  have hgie : SameGie s b := hb ▸ sameGie_beginTick
  have harr : s.flashOp = none → s.eepromOp = none → SameArrays s b := hb ▸ sameArrays_beginTick
  refine ⟨_, hstep, rfl, by simp [csqClear, ← hb], by simp [csqClear], fun i h hi => ?_, by simp [csqClear, ← hb],
    by simp [csqClear, ← hb], by simp [csqClear, ← hb], ⟨hgie.gie, hgie.gieSave⟩,
    ⟨htime.params, htime.inputs, htime.tick⟩, fun hop heop => (harr hop heop).trans ⟨fun _ => rfl, fun _ => rfl, rfl, rfl⟩⟩
  simp [csqClear, ← hb, Vector.getElem_set_ne _ _ hi.symm]

/-- In HALTED and BYPASSED a tick only begins (R42). -/
theorem ruleTick_elsewhere {e : Inputs} {s : State} (h : s.seq.cpuElsewhere = true) :
    ruleTick e s = .next (s.beginTick e) := by
  have := activeRule_seq e (s.beginTick e) s.seq (beginTick_seq ..)
  cases hseq : s.seq <;> simp_all [ruleTick, Seq.cpuElsewhere]

/-- Settles O20: the tick begins, and the rule does nothing. -/
theorem handedOverBlockHolds : Obligations.HandedOverBlockHolds := by
  intro s hv he hseq
  have hstep : step s = .next (s.beginTick s.now) := by
    have helse : s.seq.cpuElsewhere = true := by obtain h | h := hseq <;> rw [h] <;> rfl
    have hterm : s.seq.terminal = true := by obtain h | h := hseq <;> rw [h] <;> rfl
    obtain he | he := he
    · rw [step_quiet hv he, ruleTick_elsewhere helse]
    · rw [step_interrupt_ignored hv he (.inr hterm), ruleTick_elsewhere helse]
  exact ⟨_, hstep, beginTick_seq .., ⟨beginTick_rx .., beginTick_tmr .., beginTick_frame ..⟩, beginTick_fpe ..,
    sameGie_beginTick, beginTick_entryT .., beginTick_ee .., beginTick_bsq .., beginTick_ev .., beginTick_ports ..,
    timePasses_beginTick, sameArrays_beginTick⟩

/-- Settles O21: every event but a reset leaves the tick to the rule, which is the fault. -/
theorem fatalIsLeftByResetOnly : Obligations.FatalIsLeftByResetOnly := by
  intro s hv hseq
  refine ⟨fun he => ?_, step_reset hv⟩
  have hrule : ruleTick s.now s = .fault .rxFail := activeRule_seq _ _ .fatal ((beginTick_seq ..).trans hseq)
  rw [← hrule]
  cases hev : s.now.event with
  | quiet => exact step_quiet hv hev
  | reset => contradiction
  | entry => exact step_entry_running hv hev (hseq ▸ rfl)
  | interrupt => exact step_interrupt_ignored hv hev (.inr (hseq ▸ rfl))

end Sys2Proof.Machine
end

section
/-! SUPPORT. What the rules outside RECEIVE do not read: the timer (R24, R121) and the checksum bytes of FRAME (R100). One
lemma per engine says that its tick commutes with a change of both. -/

namespace Sys2Proof

/-- The instruction with another checksum field. -/
def Instr.withChecksum (x : Word) : Instr → Instr
  | .cmdNone f => .cmdNone { f with checksum := x }
  | .cmdTest f => .cmdTest { f with checksum := x }
  | .cmdProgram f => .cmdProgram { f with checksum := x }
  | .cmdRun f => .cmdRun { f with checksum := x }
  | .cmdWriteEeprom f => .cmdWriteEeprom { f with checksum := x }
  | .cmdExit f => .cmdExit { f with checksum := x }
  | .cmd06To07 b f => .cmd06To07 b { f with checksum := x }
  | .cmd08To0F b f => .cmd08To0F b { f with checksum := x }
  | .cmd10To1F b f => .cmd10To1F b { f with checksum := x }
  | .cmd20To3F b f => .cmd20To3F b { f with checksum := x }
  | .cmd40To7F b f => .cmd40To7F b { f with checksum := x }
  | .cmd80ToFF b f => .cmd80ToFF b { f with checksum := x }
  | .rjmp k => .rjmp k
  | .entryJumpWord => .entryJumpWord

/-- Which command it is does not depend on the checksum (R96, R101). -/
theorem decodeCmd_withChecksum (c : Byte) (f : Fields) (x : Word) :
    decodeCmd c { f with checksum := x } = (decodeCmd c f).withChecksum x := by
  rw [decodeCmd, decodeCmd]
  simp only [apply_ite (Instr.withChecksum x)]
  rfl

namespace Machine

/-- A change of FRAME that keeps the command byte and the payload: it touches at most bytes 5 and 6, and CLEAR commutes with
it. -/
structure KeepsCommand (φ : FrameBuf → FrameBuf) : Prop where
  byte : ∀ fr i, (h : i < 71) → i ≠ 5 → i ≠ 6 → (φ fr)[i] = fr[i]
  clear : ∀ fr, φ (fr.set 0 0) = (φ fr).set 0 0

/-- The state with another timer, and another frame. -/
def State.disguise (τ : BitVec 8 → BitVec 8) (φ : FrameBuf → FrameBuf) (s : State) : State :=
  { s with tmr := τ s.tmr, frame := φ s.frame }

section
variable {τ : BitVec 8 → BitVec 8} {φ : FrameBuf → FrameBuf}

theorem mapNext_ite (g : State → State) {P : Prop} [Decidable P] (a b : Host.Outcome State Fault Refusal) :
    mapNext g (if P then a else b) = if P then mapNext g a else mapNext g b := apply_ite ..

theorem disguise_ite {P : Prop} [Decidable P] (a b : State) :
    (if P then a else b).disguise τ φ = if P then a.disguise τ φ else b.disguise τ φ := apply_ite ..

/-- No instruction reads its checksum, the timer or FRAME (R100, R222). -/
theorem exec_disguise (i : Instr) (x : Word) (s : State) :
    exec (i.withChecksum x) (s.disguise τ φ) = mapNext (State.disguise τ φ) (exec i s) := by
  cases i with
  | cmdProgram f =>
    simp only [exec, execProgram, mapNext_ite]
    rfl
  | _ => rfl

/-- The frame decoded is the same command, but for its checksum (R95, R100). -/
theorem decodeFrame_keepsCommand (hφ : KeepsCommand φ) (fr : FrameBuf) :
    decodeFrame (φ fr) = (decodeFrame fr).withChecksum (le16 (φ fr)[5] (φ fr)[6]) := by
  have hbyte := hφ.byte fr
  have hpayload : (decodeFields (φ fr)).payload = (decodeFields fr).payload :=
    congrArg Vector.ofFn (funext fun j => hbyte (7 + j) (by omega) (by omega) (by omega))
  rw [decodeFrame, decodeFrame, ← decodeCmd_withChecksum, hbyte 0 (by decide) (by decide) (by decide)]
  congr 1
  rw [decodeFields, Fields.mk.injEq]
  exact ⟨by rw [hbyte 1 (by decide) (by decide) (by decide), hbyte 2 (by decide) (by decide) (by decide)]; rfl,
    by rw [hbyte 3 (by decide) (by decide) (by decide), hbyte 4 (by decide) (by decide) (by decide)]; rfl, rfl, hpayload⟩

theorem decodeTick_disguise (hφ : KeepsCommand φ) (s : State) :
    decodeTick (s.disguise τ φ) = mapNext (State.disguise τ φ) (decodeTick s) := by
  have hok : (s.disguise τ φ).rx.ok = s.rx.ok := rfl
  have hf : fetchFrame (s.disguise τ φ) = decodeFrame (φ s.frame) := rfl
  rw [decodeTick, decodeTick, hok, hf, decodeFrame_keepsCommand hφ]
  cases s.rx.ok with
  | false => rfl
  | true => exact exec_disguise ..

theorem interceptTick_disguise (s : State) :
    interceptTick (s.disguise τ φ) = mapNext (State.disguise τ φ) (interceptTick s) := by
  rw [interceptTick_eq, interceptTick_eq]
  rfl

theorem flashCmd_disguise (op : FlashOp) (s : State) :
    (s.disguise τ φ).flashCmd op = mapNext (State.disguise τ φ) (s.flashCmd op) := by
  unfold State.flashCmd
  rw [mapNext_ite]
  rfl

theorem startMerge_disguise (a : Word) (data : List Byte) (s : State) :
    startMerge a data (s.disguise τ φ) = mapNext (State.disguise τ φ) (startMerge a data s) := by
  rw [startMerge, startMerge, mapNext_ite]
  rfl

theorem driveReadBack_disguise (s : State) :
    driveReadBack (s.disguise τ φ) = (driveReadBack s).disguise τ φ := by
  have h : lastReadBack (s.disguise τ φ) = lastReadBack s := rfl
  rw [driveReadBack, driveReadBack, h]
  cases lastReadBack s <;> rfl

theorem fpeAssemble_disguise (s : State) :
    fpeAssemble (s.disguise τ φ) = mapNext (State.disguise τ φ) (fpeAssemble s) := by
  rw [fpeAssemble, fpeAssemble, mapNext_ite, driveReadBack_disguise]
  rfl

theorem fpeEraseWait_disguise (e : Inputs) (s : State) :
    fpeEraseWait e (s.disguise τ φ) = (fpeEraseWait e s).disguise τ φ := by
  rw [fpeEraseWait, fpeEraseWait, disguise_ite]
  rfl

theorem fpeWriteWait_disguise (e : Inputs) (s : State) :
    fpeWriteWait e (s.disguise τ φ) = (fpeWriteWait e s).disguise τ φ := by
  rw [fpeWriteWait, fpeWriteWait, disguise_ite]
  rfl

theorem fpeDone_disguise (s : State) : fpeDone (s.disguise τ φ) = (fpeDone s).disguise τ φ := by
  rcases s with ⟨_, seq⟩
  cases seq <;> rfl

theorem fpeTick_disguise (e : Inputs) (s : State) :
    fpeTick e (s.disguise τ φ) = mapNext (State.disguise τ φ) (fpeTick e s) := by
  cases hst : s.fpe.state <;> rw [fpeTick_state e s _ hst, fpeTick_state e (s.disguise τ φ) _ hst]
  case idle =>
    dsimp only
    rw [mapNext_ite, exitPStart, exitPStart, ← startMerge_disguise]
    rfl
  case enter => rfl
  case assemble => exact fpeAssemble_disguise s
  case intercept => exact interceptTick_disguise s
  case erase => exact flashCmd_disguise (.erase s.fpe.pb) (s.fpeGoto .eraseWait)
  case eraseWait => exact congrArg _ (fpeEraseWait_disguise e s)
  case write => exact flashCmd_disguise (.write s.fpe.pb s.fpe.pbuf) (s.fpeGoto .writeWait)
  case writeWait => exact congrArg _ (fpeWriteWait_disguise e s)
  case done => exact congrArg _ (fpeDone_disguise s)

theorem bootPoll_disguise (e : Inputs) (s : State) : bootPoll e (s.disguise τ φ) = (bootPoll e s).disguise τ φ := by
  rw [bootPoll, bootPoll, disguise_ite, disguise_ite]
  rfl

/-- A payload byte is not one that the change touches (R231). -/
theorem eeData_disguise (hφ : KeepsCommand φ) (e : Inputs) (s : State) : eeData e (s.disguise τ φ) = eeData e s := by
  unfold eeData
  exact dite_congr rfl (fun h => hφ.byte s.frame _ _ (by omega) (by omega)) fun _ => rfl

theorem eeTick_disguise (hφ : KeepsCommand φ) (e : Inputs) (s : State) :
    eeTick e (s.disguise τ φ) = (eeTick e s).disguise τ φ := by
  have hst : (s.disguise τ φ).ee.state = s.ee.state := rfl
  rw [eeTick, eeTick, hst, eeData_disguise hφ]
  cases s.ee.state with
  | next =>
    dsimp only
    rw [disguise_ite]
    rfl
  | wait =>
    dsimp only
    rw [disguise_ite]
    rfl
  | issue => rfl

theorem csqClear_disguise (hφ : KeepsCommand φ) (s : State) : csqClear (s.disguise τ φ) = (csqClear s).disguise τ φ := by
  simp only [csqClear, State.gotoReceive, State.disguise, hφ.clear]

theorem exitNp_disguise (s : State) : exitNp (s.disguise τ φ) = mapNext (State.disguise τ φ) (exitNp s) := by
  have h : ∀ a, (s.disguise τ φ).flashRead a = s.flashRead a := fun _ => rfl
  have hp : (s.disguise τ φ).params = s.params := rfl
  rw [exitNp, exitNp, h, h, hp]
  cases s.flashRead (pointerAddr s.params) <;> cases s.flashRead (pointerHighAddr s.params) <;> rfl

/-- Outside RECEIVE no rule reads TMR or the checksum bytes. -/
theorem activeRule_disguise (hφ : KeepsCommand φ) (e : Inputs) {s : State} (h : s.seq ≠ .receive) :
    activeRule e (s.disguise τ φ) = mapNext (State.disguise τ φ) (activeRule e s) := by
  rw [activeRule_seq e s _ rfl, activeRule_seq e (s.disguise τ φ) s.seq rfl]
  cases hseq : s.seq with
  | bootStart => rfl
  | bootPoll => exact congrArg _ (bootPoll_disguise e s)
  | receive => contradiction
  | decode => exact decodeTick_disguise hφ s
  | program => exact fpeTick_disguise e s
  | eeprom => exact congrArg _ (eeTick_disguise hφ e s)
  | clear => exact congrArg _ (csqClear_disguise hφ s)
  | exitNp => exact exitNp_disguise s
  | exitP => exact fpeTick_disguise e s
  | fatal => rfl
  | halted => rfl
  | bypassed => rfl

theorem flashController_disguise (e : Inputs) (s : State) :
    (s.disguise τ φ).flashController e = (s.flashController e).disguise τ φ := by
  have hop : (s.disguise τ φ).flashOp = s.flashOp := rfl
  rw [State.flashController, State.flashController, hop]
  cases s.flashOp with
  | none => rfl
  | some op => cases e.flBusy <;> rfl

theorem eepromCollaborator_disguise (e : Inputs) (s : State) :
    (s.disguise τ φ).eepromCollaborator e = (s.eepromCollaborator e).disguise τ φ := by
  have hop : (s.disguise τ φ).eepromOp = s.eepromOp := rfl
  rw [State.eepromCollaborator, State.eepromCollaborator, hop]
  cases s.eepromOp with
  | none => rfl
  | some op => cases e.eeBusy <;> rfl

/-- A tick begun reads neither TMR, which it counts, nor FRAME. -/
theorem beginTick_disguise {τ' : BitVec 8 → BitVec 8} (e : Inputs) {s : State} (h : τ' (s.tmr + 1) = τ s.tmr + 1) :
    (s.disguise τ φ).beginTick e = (s.beginTick e).disguise τ' φ := by
  rw [State.beginTick, State.beginTick, State.environmentTick, State.environmentTick, flashController_disguise,
    eepromCollaborator_disguise]
  simp only [State.disguise, flashController_tmr, eepromCollaborator_tmr, h]

/-- A quiet step outside RECEIVE depends on neither TMR nor the checksum bytes. -/
theorem step_disguise {τ' : BitVec 8 → BitVec 8} (hφ : KeepsCommand φ) {s : State} (hτ : τ' (s.tmr + 1) = τ s.tmr + 1)
    (hq : s.now.event = .quiet) (h : s.seq ≠ .receive) :
    step (s.disguise τ φ) = mapNext (State.disguise τ' φ) (step s) := by
  have hnow : (s.disguise τ φ).now = s.now := rfl
  have hparams : (s.disguise τ φ).params = s.params := rfl
  by_cases hv : ParamsValid s.params
  · rw [step_active hv hq, step_active (hparams ▸ hv) (hnow ▸ hq), hnow, beginTick_disguise _ hτ]
    exact activeRule_disguise hφ _ (by simpa using h)
  · rw [step_badParams hv, step_badParams (hparams ▸ hv)]
    rfl

end

theorem keepsCommand_id : KeepsCommand id := ⟨fun _ _ _ _ _ => rfl, fun _ => rfl⟩

theorem keepsCommand_checksum (b0 b1 : Byte) : KeepsCommand fun fr => (fr.set 5 b0).set 6 b1 where
  byte fr i h h5 h6 := by rw [Vector.getElem_set_ne _ _ h6.symm, Vector.getElem_set_ne _ _ h5.symm]
  clear fr := by rw [Vector.set_comm _ _ (show 0 ≠ 5 by decide), Vector.set_comm _ _ (show 0 ≠ 6 by decide)]

/-- Settles O19: another value of TMR is a disguise, which the begun tick carries on. -/
theorem timerIsTheReceiversAlone : Obligations.TimerIsTheReceiversAlone := fun s v hq h =>
  step_disguise (s := s) (τ := fun _ => v) (τ' := fun _ => v + 1) keepsCommand_id rfl hq h

/-- Settles O24: other checksum bytes are a disguise. -/
theorem checksumIsNeverRead : Obligations.ChecksumIsNeverRead := fun s b0 b1 hq h =>
  step_disguise (s := s) (τ := id) (τ' := id) (keepsCommand_checksum b0 b1) rfl hq h

end Machine
end Sys2Proof
end

section
/-! SUPPORT. The meanings of the instructions: what each leaves alone, and the operands of Program, WriteEEPROM and the
interception (R95, R107, R190, R222 to R229, R232). -/

namespace Sys2Proof.Machine

/-- An instruction's own step writes SEQ, the flash engine's registers, the EEPROM sequence's and the transient pointer at
most. -/
theorem sameButSequencing_update (s : State) (seq : Seq) (fpe : Fpe) (ee : Ee) (entryT : Word) :
    SameButSequencing s { s with seq := seq, fpe := fpe, ee := ee, entryT := entryT } :=
  ⟨⟨fun _ => rfl, fun _ => rfl, rfl, rfl⟩, ⟨rfl, rfl, rfl⟩, ⟨rfl, rfl⟩, ⟨rfl, rfl⟩, ⟨rfl, rfl, rfl⟩, rfl⟩

/-- The commands without an effect write SEQ only. -/
theorem goto_sameButSequencing (s : State) (v : Seq) : SameButSequencing s (s.goto v) :=
  sameButSequencing_update s v s.fpe s.ee s.entryT

theorem interceptWord_sameButSequencing (w : Word) (s : State) : SameButSequencing s (interceptWord w s) :=
  sameButSequencing_update s s.seq _ s.ee _

/-- A Program at or above BOOTLOADER_START is ignored (R73, R225). -/
theorem exec_program_protected {f : Fields} {s : State} (h : s.params.blStart ≤ (pageOperand f).toNat) :
    exec (.cmdProgram f) s = .next (s.goto .clear) :=
  if_pos (decide_eq_true h)

/-- Settles O7: no arm of `exec` writes more than the sequencing registers. -/
theorem everyInstructionRunsAndOnlySequences : Obligations.EveryInstructionRunsAndOnlySequences := by
  intro i s
  cases i with
  | cmdProgram f =>
    by_cases h : s.params.blStart ≤ (pageOperand f).toNat
    · exact ⟨_, exec_program_protected h, goto_sameButSequencing ..⟩
    · exact ⟨_, exec_program_below (not_le.mp h), sameButSequencing_update s .program _ s.ee s.entryT⟩
  | cmdRun f => exact ⟨_, rfl, goto_sameButSequencing ..⟩
  | cmdWriteEeprom f => exact ⟨_, rfl, sameButSequencing_update s .eeprom s.fpe _ s.entryT⟩
  | rjmp k => exact ⟨_, rfl, interceptWord_sameButSequencing ..⟩
  | entryJumpWord => exact ⟨_, rfl, interceptWord_sameButSequencing ..⟩
  | _ => exact ⟨_, rfl, goto_sameButSequencing ..⟩

/-! ## Page operands -/

theorem pageOperand_toNat (f : Fields) : (pageOperand f).toNat = f.pageNumber.toNat * 64 % 65536 :=
  BitVec.toNat_mul ..

/-- Settles O9: the page operand is a page base, compared with BOOTLOADER_START. -/
theorem programStartsOrIgnores : Obligations.ProgramStartsOrIgnores := by
  intro f s
  rw [← pageOperand_toNat]
  refine ⟨exec_program_protected, fun h => ⟨_, exec_program_below h, rfl, rfl, rfl, ?_, rfl, rfl, rfl, rfl, rfl, rfl,
    sameButSequencing_update s .program _ s.ee s.entryT⟩⟩
  exact congrArg BitVec.toNat (pageBase_pageOperand f)

/-- Settles O10: Run writes SEQ. -/
theorem runGoesToThePersistingExit : Obligations.RunGoesToThePersistingExit := fun _ _ => rfl

/-- Settles O11: WriteEEPROM writes SEQ and the sequence's registers. -/
theorem writeEepromStartsTheSequence : Obligations.WriteEepromStartsTheSequence := fun f s =>
  ⟨_, rfl, rfl, rfl, pageOperand_toNat f, rfl, rfl, rfl, rfl, sameButSequencing_update s .eeprom s.fpe _ s.entryT⟩

/-! ## Interception -/

/-- The target of a relative jump at word 0 with offset k, as an integer (R107). -/
theorem rjmpTarget_rjmpWord_toNat {p : Params} (hv : ParamsValid p) (k : BitVec 12) :
    ((rjmpTarget p (rjmpWord k) 0).toNat : Int) = (1 + k.toInt) % ((p.flashSize / 2 : Nat) : Int) := by
  obtain ⟨-, hsize, -, hlow, hhigh, -⟩ := hv
  have hnonneg := Int.emod_nonneg (1 + k.toInt) (b := (p.flashSize / 2 : Nat)) (by omega)
  have hlt := Int.emod_lt_of_pos (1 + k.toInt) (b := (p.flashSize / 2 : Nat)) (by omega)
  have hoffset : (rjmpWord k).extractLsb' 0 12 = k := BitVec.extractLsb'_append_eq_right
  rw [rjmpTarget, hoffset, BitVec.toNat_ofInt, Nat.cast_zero, Int.zero_add, flashWords]
  omega

theorem entryWordAddr_toNat {p : Params} (hv : ParamsValid p) : (entryWordAddr p).toNat = p.blEntry / 2 := by
  obtain ⟨-, hsize, -, -, -, -, -, hentry, -⟩ := hv
  rw [entryWordAddr, BitVec.toNat_ofNat]
  omega

/-- Replacing word 0 by itself changes nothing (R174). -/
theorem putWord0_word0 (b : Page) : putWord0 b (word0 b) = b := by
  rw [putWord0, word0, loByte_le16, hiByte_le16]
  simp

/-- Settles O12: the target as an integer, and ENTRY_JUMP_WORD in word 0. -/
theorem relativeJumpIsIntercepted : Obligations.RelativeJumpIsIntercepted := fun k _ hv =>
  ⟨_, rfl, rjmpTarget_rjmpWord_toNat hv k, putWord0_getElem_zero .., putWord0_getElem_one ..,
    fun _ h hj => putWord0_getElem_of_ge _ _ h hj, rfl, rfl, rfl, rfl, rfl, rfl, rfl, rfl,
    interceptWord_sameButSequencing ..⟩

/-- Settles O13: under valid parameters ENTRY_JUMP_WORD reaches the entry. -/
theorem entryJumpIsInterceptedAsItself : Obligations.EntryJumpIsInterceptedAsItself := by
  intro s hv
  have htarget : rjmpTarget s.params (entryJumpWord s.params) 0 = entryWordAddr s.params := by
    obtain ⟨-, -, -, -, -, -, -, -, h⟩ := hv
    exact h
  refine ⟨_, rfl, (congrArg BitVec.toNat htarget).trans (entryWordAddr_toNat hv), putWord0_getElem_zero ..,
    putWord0_getElem_one .., fun hw => ?_, fun _ h hj => putWord0_getElem_of_ge _ _ h hj, rfl, rfl, rfl, rfl, rfl, rfl, rfl,
    rfl, interceptWord_sameButSequencing ..⟩
  exact (congrArg (putWord0 s.fpe.pbuf) hw.symm).trans (putWord0_word0 s.fpe.pbuf)

end Sys2Proof.Machine
end

section
/-! SUPPORT. Reset: what it keeps of the two arrays (R41, R287), and where it leads (R280). -/

namespace Sys2Proof.Machine

section
variable {s : State}

theorem flashKept_idle (h : s.flashOp = none) : s.flashKept = s.flash := by simp [State.flashKept, h]

theorem eepromKept_idle (h : s.eepromOp = none) : s.eepromKept = s.eeprom := by simp [State.eepromKept, h]

/-- What a reset keeps of FLASH is canonical (R41). -/
theorem flashKept_wf (harr : s.ArraysOk) :
    Memory.wf (flashBlank s.params) s.params.flashSize s.flashKept = true := by
  cases hop : s.flashOp with
  | none => exact flashKept_idle hop ▸ harr.flash
  | some op =>
    rw [State.flashKept, hop]
    exact putPage_wf harr.flash (opInFlash_of_some harr.op hop) _

theorem eepromKept_wf (harr : s.ArraysOk) : Memory.wf eepromBlank 512 s.eepromKept = true := by
  cases hop : s.eepromOp with
  | none => exact eepromKept_idle hop ▸ harr.eeprom
  | some op =>
    rw [State.eepromKept, hop]
    exact Memory.wf_write harr.eeprom (eepromClamp_lt _) _

/-- A reset keeps every byte outside the page under operation (R287). -/
theorem read_flashKept (harr : s.ArraysOk) {a : Nat}
    (h : ∀ op, s.flashOp = some op → ¬(op.pb.toNat ≤ a ∧ a < op.pb.toNat + 64)) :
    Memory.read (flashBlank s.params) s.flashKept a = s.flashByte a := by
  rw [flashByte_outside_op h]
  cases hop : s.flashOp with
  | none => rw [flashKept_idle hop]
  | some op =>
    simp only [State.flashKept, hop]
    rw [read_putPage harr.flash (opInFlash_of_some harr.op hop), if_neg (h op hop)]

/-- A reset keeps every byte but the one under a write (R287). -/
theorem read_eepromKept (harr : s.ArraysOk) {a : Nat}
    (h : ∀ op, s.eepromOp = some op → a ≠ eepromClamp op.addr) :
    Memory.read eepromBlank s.eepromKept a = s.eepromByte a := by
  rw [eepromByte_outside_op h]
  cases hop : s.eepromOp with
  | none => rw [eepromKept_idle hop]
  | some op =>
    simp only [State.eepromKept, hop]
    rw [Memory.read_write harr.eeprom, if_neg (h op hop)]

end

/-- A reset leads into the block exactly where host word 0 jumps to the bootloader entry, and else past it (R280). -/
theorem resetSeq_eq_bootStart {p : Params} {m : Memory} :
    resetSeq p m = .bootStart ↔ isRjmp (m.hostWord0 p) = true ∧ rjmpTarget p (m.hostWord0 p) 0 = entryWordAddr p := by
  rw [← beq_iff_eq (a := rjmpTarget p _ 0), ← Bool.and_eq_true, ← reachesEntry, resetSeq]
  cases reachesEntry p (m.hostWord0 p) <;> simp

theorem resetSeq_eq_or (p : Params) (m : Memory) : resetSeq p m = .bootStart ∨ resetSeq p m = .bypassed := by
  unfold resetSeq
  split
  · exact .inl rfl
  · exact .inr rfl

/-- ENTRY_JUMP_WORD at word 0 leads into the block (R198). -/
theorem resetSeq_of_entryJumpWord {p : Params} {m : Memory} (hv : ParamsValid p) (h : m.hostWord0 p = entryJumpWord p) :
    resetSeq p m = .bootStart := by
  obtain ⟨-, -, -, -, -, -, -, -, htarget⟩ := hv
  exact resetSeq_eq_bootStart.mpr ⟨h ▸ isRjmp_entryJumpWord p, h ▸ htarget⟩

/-- Settles O48: R40's values, where word 0 leads, and the arrays a reset keeps. -/
theorem resetWinsAtAnyTick : Obligations.ResetWinsAtAnyTick := by
  intro s hv he
  have hflash : s.flashOp = none → ∀ a, (s.takeReset s.now).flashByte a = s.flashByte a := fun hop a =>
    (congrArg (Memory.read _ · a) (flashKept_idle hop)).trans (flashByte_idle hop a).symm
  have heeprom : s.eepromOp = none → ∀ a, (s.takeReset s.now).eepromByte a = s.eepromByte a := fun hop a =>
    (congrArg (Memory.read _ · a) (eepromKept_idle hop)).trans (eepromByte_idle hop a).symm
  exact ⟨_, step_reset hv he, rfl, rfl, rfl, rfl, rfl, rfl, rfl, rfl, rfl, ⟨rfl, rfl, rfl⟩, resetSeq_eq_or ..,
    resetSeq_eq_bootStart, resetSeq_of_entryJumpWord hv, hflash, heeprom⟩

/-- Settles O49: a reset writes the page, and the byte, under operation only. -/
theorem resetSparesSettledBytes : Obligations.ResetSparesSettledBytes := by
  intro s hv harr he
  refine ⟨_, step_reset hv he, fun op hop a ha => ?_, fun op hop a ha => ?_⟩
  · exact read_flashKept harr fun op' hop' => Option.some.inj (hop.symm.trans hop') ▸ ha
  · exact read_eepromKept harr fun op' hop' => Option.some.inj (hop.symm.trans hop') ▸ ha

/-- Settles O50: the entry is a reset but for SEQ. -/
theorem entryByAnotherRouteIsAReset : Obligations.EntryByAnotherRouteIsAReset := by
  intro s hv he hseq
  exact ⟨step_entry hv he (by obtain h | h := hseq <;> rw [h] <;> rfl), rfl⟩

/-- Settles O52: the values stand in `State.afterReset`, and word 0 of the blank array is ENTRY_JUMP_WORD. -/
theorem resetStateValues : Obligations.ResetStateValues :=
  ⟨rfl, rfl, rfl, rfl, rfl, rfl, rfl, rfl, rfl, resetSeq_of_entryJumpWord (by decide) (le16_loByte_hiByte _)⟩

end Sys2Proof.Machine
end

section
/-! SUPPORT. What the active rule can do to the arrays, the page FPE works on and the handoff port, said once; from it the
invariants on the arrays (R60, R64), on the Bootloader Region (R73) and on the handoff port (R35). -/

namespace Sys2Proof.Machine

/-- What a tick of the active rule on the begun tick b leaves: the arrays as they are, an application page wherever FPE
works, an operation only on FPE's page, and the handoff port driven only on the way to HALTED. -/
structure RuleFrame (b t : State) : Prop where
  params : t.params = b.params
  flash : t.flash = b.flash
  eeprom : t.eeprom = b.eeprom
  page : t.fpe.state ≠ .idle → AppPage b.params t.fpe.pb ∨ (b.fpe.state ≠ .idle ∧ t.fpe.pb = b.fpe.pb)
  op : ∀ op, t.flashOp = some op → b.flashOp = some op ∨
    (b.fpe.state ≠ .idle ∧ op.pb = b.fpe.pb ∧ op.pb.toNat + 64 ≤ b.params.flashSize)
  port : (t.seq = .halted ∧ t.ports.hoValid = true) ∨ (t.seq ≠ .halted ∧ t.ports.hoValid = b.ports.hoValid)

section
variable {e : Inputs} {b t : State}

/-- The rules that neither run FPE nor hand off. -/
theorem RuleFrame.of_quiet (params : t.params = b.params) (flash : t.flash = b.flash) (eeprom : t.eeprom = b.eeprom)
    (fpe : t.fpe = b.fpe) (flashOp : t.flashOp = b.flashOp) (seq : t.seq ≠ .halted)
    (port : t.ports.hoValid = b.ports.hoValid) : RuleFrame b t where
  params := params
  flash := flash
  eeprom := eeprom
  page h := .inr ⟨fpe ▸ h, congrArg Fpe.pb fpe⟩
  op _ h := .inl (flashOp ▸ h)
  port := .inr ⟨seq, port⟩

/-- The rules that hand off. -/
theorem RuleFrame.of_handoff (params : t.params = b.params) (flash : t.flash = b.flash) (eeprom : t.eeprom = b.eeprom)
    (page : t.fpe.state ≠ .idle → b.fpe.state ≠ .idle ∧ t.fpe.pb = b.fpe.pb) (flashOp : t.flashOp = b.flashOp)
    (seq : t.seq = .halted) (port : t.ports.hoValid = true) : RuleFrame b t where
  params := params
  flash := flash
  eeprom := eeprom
  page h := .inr (page h)
  op _ h := .inl (flashOp ▸ h)
  port := .inl ⟨seq, port⟩

/-- A page operand below BOOTLOADER_START is an application page (R66, R73, R225). -/
theorem appPage_pageOperand {p : Params} {f : Fields} (h : selfProtected p (pageOperand f) = false) :
    AppPage p (pageBase (pageOperand f)) := by
  rw [selfProtected, decide_eq_false_iff_not, not_le] at h
  rw [pageBase_pageOperand]
  refine ⟨?_, h⟩
  rw [pageOperand_toNat]
  omega

/-- The pointer's page is an application page (R72, R73). -/
theorem appPage_pointerAddr {p : Params} (hv : ParamsValid p) : AppPage p (pageBase (pointerAddr p)) := by
  have h := pageBase_pointerAddr_toNat hv
  obtain ⟨-, -, hpage, hlow, -⟩ := hv
  rw [AppPage, h]
  omega

theorem bootPoll_ruleFrame (hseq : b.seq = .bootPoll) : RuleFrame b (bootPoll e b) := by
  obtain ⟨-, h⟩ | ⟨-, -, h⟩ | ⟨-, -, h⟩ := bootPoll_cases e b <;> rw [h]
  · exact .of_quiet rfl rfl rfl rfl rfl (by simp) rfl
  · exact .of_quiet rfl rfl rfl rfl rfl (by simp) rfl
  · exact .of_quiet rfl rfl rfl rfl rfl (by simp [hseq]) rfl

theorem rxTick_ruleFrame (hseq : b.seq = .receive) : RuleFrame b (rxTick e b) := by
  obtain ⟨rx, tmr, frame, seq, h, hto⟩ := rxTick_frame e b
  rw [h]
  exact .of_quiet rfl rfl rfl rfl rfl (by obtain rfl | ⟨rfl, -⟩ := hto <;> simp [hseq]) rfl

theorem decodeTick_ruleFrame (h : decodeTick b = .next t) : RuleFrame b t := by
  obtain ⟨-, h'⟩ | ⟨-, h' | ⟨f, -, hbelow, h'⟩ | ⟨f, -, h'⟩ | ⟨f, -, h'⟩⟩ := decodeTick_cases b <;> rw [h'] at h <;> cases h
  · exact .of_quiet rfl rfl rfl rfl rfl (by simp) rfl
  · exact .of_quiet rfl rfl rfl rfl rfl (by simp) rfl
  · exact ⟨rfl, rfl, rfl, fun _ => .inl (appPage_pageOperand hbelow), fun _ => .inl, .inr ⟨by simp, rfl⟩⟩
  · exact .of_quiet rfl rfl rfl rfl rfl (by simp) rfl
  · exact .of_quiet rfl rfl rfl rfl rfl (by simp) rfl

theorem eeTick_ruleFrame (hseq : b.seq = .eeprom) : RuleFrame b (eeTick e b) := by
  obtain ⟨-, -, h⟩ | ⟨-, -, h⟩ | ⟨-, -, h⟩ | ⟨-, -, h⟩ | ⟨-, h⟩ := eeTick_cases e b <;> rw [h]
  · exact .of_quiet rfl rfl rfl rfl rfl (by simp) rfl
  · exact .of_quiet rfl rfl rfl rfl rfl (by simp [hseq]) rfl
  · exact .of_quiet rfl rfl rfl rfl rfl (by simp [hseq]) rfl
  · exact .of_quiet rfl rfl rfl rfl rfl (by simp [hseq]) rfl
  · exact .of_quiet rfl rfl rfl rfl rfl (by simp [eeAdvance, hseq]) rfl

/-- FPE goes on with its page, and changes no array and no operation. -/
theorem RuleFrame.of_fpe (hrun : b.fpe.state ≠ .idle) (hc : b.FpeCalled) (params : t.params = b.params)
    (flash : t.flash = b.flash) (eeprom : t.eeprom = b.eeprom) (pb : t.fpe.pb = b.fpe.pb)
    (flashOp : t.flashOp = b.flashOp) (seq : t.seq = b.seq) (port : t.ports.hoValid = b.ports.hoValid) :
    RuleFrame b t where
  params := params
  flash := flash
  eeprom := eeprom
  page _ := .inr ⟨hrun, pb⟩
  op _ h := .inl (flashOp ▸ h)
  port := .inr ⟨by obtain h | h := hc <;> simp [seq, h], port⟩

/-- FPE issues a command on its page (R164, R165). -/
theorem RuleFrame.of_flashCmd {v : FpeState} {op : FlashOp} (hrun : b.fpe.state ≠ .idle) (hc : b.FpeCalled)
    (hop : op.pb = b.fpe.pb) (h : (b.fpeGoto v).flashCmd op = .next t) : RuleFrame b t := by
  obtain ⟨hfits, hset, ht, hport, -⟩ := flashCmd_next h
  rw [ht]
  refine ⟨rfl, rfl, rfl, fun _ => .inr ⟨hrun, rfl⟩, fun op' hop' => ?_, .inr ⟨?_, hport⟩⟩
  · obtain rfl : op = op' := Option.some.inj hop'
    exact .inr ⟨hrun, hop, hfits⟩
  · obtain h | h := hc <;> simp [h]

theorem fpeDone_ruleFrame (hc : b.FpeCalled) : RuleFrame b (fpeDone b) := by
  obtain hseq | hseq := hc
  · rw [fpeDone_program hseq]
    exact ⟨rfl, rfl, rfl, fun h => absurd rfl h, fun _ => .inl, .inr ⟨by simp, rfl⟩⟩
  · rw [fpeDone_exitP hseq]
    exact ⟨rfl, rfl, rfl, fun h => absurd rfl h, fun _ => .inl, .inl ⟨rfl, rfl⟩⟩

/-- A wait of FPE goes on or ends (R164, R165). -/
theorem RuleFrame.of_fpe_wait {v : FpeState} (hrun : b.fpe.state ≠ .idle) (hc : b.FpeCalled) :
    RuleFrame b (if e.flBusy then b else b.fpeGoto v) := by
  split
  · exact .of_fpe hrun hc rfl rfl rfl rfl rfl rfl rfl
  · exact .of_fpe hrun hc rfl rfl rfl rfl rfl rfl rfl

theorem exitPStart_ruleFrame (hv : ParamsValid b.params) (hseq : b.seq = .exitP) (h : exitPStart b = .next t) :
    RuleFrame b t := by
  obtain ⟨-, rfl⟩ := startMerge_next h
  exact ⟨rfl, rfl, rfl, fun _ => .inl (appPage_pointerAddr hv), fun _ => .inl, .inr ⟨by simp [hseq], rfl⟩⟩

/-- ASSEMBLE leaves some address on fl_rdaddr (R169). -/
theorem driveReadBack_eq (s : State) : ∃ a, driveReadBack s = s.driveRdaddr a := by
  obtain h | ⟨j, -, -, h⟩ := driveReadBack_cases s
  · exact ⟨s.ports.flRdaddr, h⟩
  · exact ⟨_, h⟩

theorem assembled_ruleFrame (hrun : b.fpe.state ≠ .idle) (hc : b.FpeCalled) (pbuf : Page) (v : FpeState) :
    RuleFrame b { driveReadBack b with fpe := { b.fpe with pbuf := pbuf, state := v } } := by
  obtain ⟨a, h⟩ := driveReadBack_eq b
  rw [h]
  exact .of_fpe hrun hc rfl rfl rfl rfl rfl rfl rfl

theorem fpeTick_ruleFrame (hv : ParamsValid b.params) (hc : b.FpeCalled) (h : fpeTick e b = .next t) :
    RuleFrame b t := by
  have hrun : ∀ q : FpeState, b.fpe.state = q → q ≠ .idle → b.fpe.state ≠ .idle := fun q hq h => hq ▸ h
  obtain ⟨-, -, rfl⟩ | ⟨-, hseq, h⟩ | ⟨hst, rfl⟩ | ⟨hst, -, rfl⟩ | ⟨hst, -, -, rfl⟩ | ⟨hst, -, rfl⟩ |
    ⟨hst, h⟩ | ⟨hst, rfl⟩ | ⟨hst, h⟩ | ⟨hst, rfl⟩ | ⟨hst, rfl⟩ := fpeTick_next h
  · exact .of_quiet rfl rfl rfl rfl rfl (by obtain h | h := hc <;> simp [h]) rfl
  · exact exitPStart_ruleFrame hv hseq h
  · exact .of_fpe (hrun _ hst (by decide)) hc rfl rfl rfl rfl rfl rfl rfl
  · exact assembled_ruleFrame (hrun _ hst (by decide)) hc ..
  · exact .of_fpe (hrun _ hst (by decide)) hc rfl rfl rfl rfl rfl rfl rfl
  · exact .of_fpe (hrun _ hst (by decide)) hc rfl rfl rfl rfl rfl rfl rfl
  · exact .of_flashCmd (hrun _ hst (by decide)) hc (op := .erase b.fpe.pb) rfl h
  · exact .of_fpe_wait (hrun _ hst (by decide)) hc
  · exact .of_flashCmd (hrun _ hst (by decide)) hc (op := .write b.fpe.pb b.fpe.pbuf) rfl h
  · exact .of_fpe_wait (hrun _ hst (by decide)) hc
  · exact fpeDone_ruleFrame hc

/-- Every rule, on the begun tick of a block that runs. -/
theorem activeRule_ruleFrame (hv : ParamsValid b.params) (ht : b.seq.terminal = false) (h : activeRule e b = .next t) :
    RuleFrame b t := by
  obtain ⟨-, rfl⟩ | ⟨hseq, rfl⟩ | ⟨hseq, rfl⟩ | ⟨-, h⟩ | ⟨hc, h⟩ | ⟨hseq, rfl⟩ | ⟨-, rfl⟩ | ⟨-, h⟩ := activeRule_next ht h
  · exact .of_quiet rfl rfl rfl rfl rfl (by simp [bootStart]) rfl
  · exact bootPoll_ruleFrame hseq
  · exact rxTick_ruleFrame hseq
  · exact decodeTick_ruleFrame h
  · exact fpeTick_ruleFrame hv hc h
  · exact eeTick_ruleFrame hseq
  · exact .of_quiet rfl rfl rfl rfl rfl (by simp [csqClear]) rfl
  · rw [exitNp_eq hv] at h
    cases h
    exact .of_handoff rfl rfl rfl (fun h => ⟨h, rfl⟩) rfl rfl rfl

end

/-! ## Invariants by cases on the step -/

/-- A property that a reset, an entry, a tick begun and the active rule keep is kept by every step. -/
theorem step_cases {s t : State} {P : State → Prop} (h : step s = .next t)
    (hreset : ∀ seq, (seq = .bootStart ∨ seq = .bypassed) →
      P (.afterReset s.params seq s.now.gieEntry s.flashKept s.eepromKept (s.inputs.drop 1) (s.tick + 1)))
    (hbegin : s.seq.cpuElsewhere = true → P (s.beginTick s.now))
    (hrule : ParamsValid s.params → s.seq.terminal = false → activeRule s.now (s.beginTick s.now) = .next t → P t) :
    P t := by
  obtain ⟨hv, rfl | ⟨-, rfl⟩ | hr⟩ := step_next h
  · exact hreset _ (resetSeq_eq_or ..)
  · exact hreset _ (.inl rfl)
  · obtain ⟨helse, rfl⟩ | ⟨hterm, hr⟩ := ruleTick_next hr
    · exact hbegin helse
    · exact hrule hv hterm hr

/-! ## The arrays -/

section
variable {s : State} {e : Inputs}

theorem flashController_wf (harr : s.ArraysOk) :
    Memory.wf (flashBlank s.params) s.params.flashSize (s.flashController e).flash = true := by
  cases hop : s.flashOp with
  | none => exact (flashController_idle hop).symm ▸ harr.flash
  | some op =>
    cases he : e.flBusy with
    | true => exact (flashController_busy he).symm ▸ harr.flash
    | false =>
      rw [flashController_free hop he]
      exact putPage_wf harr.flash (opInFlash_of_some harr.op hop) _

theorem eepromCollaborator_wf (h : Memory.wf eepromBlank 512 s.eeprom = true) :
    Memory.wf eepromBlank 512 (s.eepromCollaborator e).eeprom = true := by
  cases hop : s.eepromOp with
  | none => rwa [eepromCollaborator_idle hop]
  | some op =>
    cases he : e.eeBusy with
    | true => rwa [eepromCollaborator_busy he]
    | false =>
      rw [eepromCollaborator_free hop he]
      exact Memory.wf_write h (eepromClamp_lt _) _

theorem opInFlash_iff : s.OpInFlash ↔ ∀ op, s.flashOp = some op → op.pb.toNat + 64 ≤ s.params.flashSize := by
  cases hop : s.flashOp <;> simp [State.OpInFlash, hop]

/-- A tick begun keeps both arrays canonical. -/
theorem arraysOk_beginTick (harr : s.ArraysOk) : (s.beginTick e).ArraysOk where
  flash := by simpa using flashController_wf harr
  eeprom := by simpa using eepromCollaborator_wf harr.eeprom
  op := opInFlash_iff.mpr fun op hop => by
    rw [beginTick_flashOp] at hop
    simpa using opInFlash_of_some harr.op (flashOp_of_flashController hop)

theorem RuleFrame.arraysOk {t : State} (h : RuleFrame s t) (harr : s.ArraysOk) : t.ArraysOk where
  flash := by rw [h.params, h.flash]; exact harr.flash
  eeprom := by rw [h.eeprom]; exact harr.eeprom
  op := opInFlash_iff.mpr fun op hop => by
    rw [h.params]
    obtain hkept | ⟨-, -, hfits⟩ := h.op op hop
    · exact opInFlash_of_some harr.op hkept
    · exact hfits

end

/-- Settles O53: a reset writes inside the arrays, the controllers too, and the rules write nothing. -/
theorem arraysStayCanonical : Obligations.ArraysStayCanonical := by
  intro s t harr h
  refine step_cases h (fun _ _ => ⟨flashKept_wf (s := s) harr, eepromKept_wf (s := s) harr, trivial⟩) (fun _ => arraysOk_beginTick harr)
    fun hv ht hr => ?_
  exact (activeRule_ruleFrame (by simpa using hv) (by simpa using ht) hr).arraysOk (arraysOk_beginTick harr)

/-! ## The Bootloader Region -/

/-- The page of an application page lies wholly below BOOTLOADER_START (R66, R73). -/
theorem AppPage.not_covers {p : Params} {pb : Word} (h : AppPage p pb) (hv : ParamsValid p) {a : Nat}
    (ha : p.blStart ≤ a) : ¬(pb.toNat ≤ a ∧ a < pb.toNat + 64) := by
  obtain ⟨hbase, hlow⟩ := h
  obtain ⟨-, -, hpage, -⟩ := hv
  omega

section
variable {s t : State} {e : Inputs}

theorem protected_beginTick (hp : s.Protected) : (s.beginTick e).Protected where
  fpe h := by
    rw [beginTick_params, beginTick_fpe] at *
    exact hp.fpe h
  op op hop := by
    rw [beginTick_flashOp] at hop
    rw [beginTick_params]
    exact hp.op op (flashOp_of_flashController hop)

/-- The rules keep FPE and the controller on application pages. -/
theorem RuleFrame.protected (h : RuleFrame s t) (hp : s.Protected) : t.Protected where
  fpe hrun := by
    rw [h.params]
    obtain happ | ⟨hran, hpb⟩ := h.page hrun
    · exact happ
    · exact hpb ▸ hp.fpe hran
  op op hop := by
    rw [h.params]
    obtain hkept | ⟨hran, hpb, -⟩ := h.op op hop
    · exact hp.op op hkept
    · exact hpb ▸ hp.fpe hran

/-- A byte of the Bootloader Region is outside every operation. -/
theorem State.Protected.outside_op (hp : s.Protected) (hv : ParamsValid s.params) {a : Nat} (ha : s.params.blStart ≤ a) :
    ∀ op, s.flashOp = some op → ¬(op.pb.toNat ≤ a ∧ a < op.pb.toNat + 64) :=
  fun op hop => (hp.op op hop).not_covers hv ha

end

/-- Settles O54: a reset, the controller and the rules change pages under operation only, and those are application
pages. -/
theorem bootloaderRegionIsNeverWritten : Obligations.BootloaderRegionIsNeverWritten := by
  intro s t harr hp h
  obtain ⟨hv, -⟩ := step_next h
  have hbegun : ∀ a, s.params.blStart ≤ a → (s.beginTick s.now).flashByte a = s.flashByte a := fun a ha =>
    flashByte_beginTick harr (hp.outside_op hv ha)
  refine step_cases (P := fun t => t.Protected ∧ ∀ a, s.params.blStart ≤ a → t.flashByte a = s.flashByte a) h
    (fun _ _ => ⟨⟨fun h => absurd rfl h, fun _ h => by cases h⟩, fun a ha => ?_⟩)
    (fun _ => ⟨protected_beginTick hp, hbegun⟩) fun _ ht hr => ?_
  · exact read_flashKept harr (hp.outside_op hv ha)
  · have hf := activeRule_ruleFrame (by simpa using hv) (by simpa using ht) hr
    have hparams : t.params = s.params := hf.params.trans (beginTick_params ..)
    have hpt := hf.protected (protected_beginTick hp)
    refine ⟨hpt, fun a ha => ?_⟩
    rw [← hbegun a ha, flashByte_outside_op (hpt.outside_op (hparams ▸ hv) (hparams ▸ ha)),
      flashByte_outside_op ((protected_beginTick hp).outside_op (by simpa using hv) (by simpa using ha)), hf.params,
      hf.flash]

/-! ## The handoff port -/

/-- Settles O58: only the two exits drive the port, and both go to HALTED. -/
theorem handoffPortMarksHalted : Obligations.HandoffPortMarksHalted := by
  intro s t hok h
  unfold State.HandoffOk at hok
  refine step_cases h (fun seq hseq => ?_) (fun _ => by simpa [State.HandoffOk] using hok) fun hv ht hr => ?_
  · obtain rfl | rfl := hseq <;> simp [State.HandoffOk, State.afterReset]
  · have hport := (activeRule_ruleFrame (by simpa using hv) (by simpa using ht) hr).port
    rw [beginTick_ports] at hport
    obtain ⟨hseq, hport⟩ | ⟨hseq, hport⟩ := hport
    · simp [State.HandoffOk, hseq, hport]
    · have hrunning : s.seq ≠ .halted := by
        rintro hs
        rw [hs] at ht
        cases ht
      simp [State.HandoffOk, hseq, hport, hok, hrunning]

end Sys2Proof.Machine
end

section
/-! SUPPORT. The engines' discipline (R34, R69, R160, R162 to R166, R231): every state is of one of three kinds, FPE idle, FPE
at work with nothing in progress, and FPE waiting for its own command. -/

namespace Sys2Proof.Machine

section
variable {s b t : State} {e : Inputs}

/-! ## The three kinds of states -/

theorem State.EnginesOk.of_idle (hst : s.fpe.state = .idle) (hop : s.flashOp = none) (hseq : s.seq ≠ .program)
    (hmask : s.seq = .eeprom → s.ee.state ≠ .next → s.gie = false) : s.EnginesOk where
  called h := absurd hst h
  program h := absurd h hseq
  erasing h := by rw [hst] at h; cases h
  writing h := by rw [hst] at h; cases h
  settled _ _ := hop
  flashMasked h := absurd hst h
  eepromMasked := hmask

/-- FPE is called, so the EEPROM sequence does not run. -/
theorem State.FpeCalled.seq_ne_eeprom (hc : s.FpeCalled) : s.seq ≠ .eeprom := by
  obtain h | h := hc <;> simp [h]

theorem State.EnginesOk.of_working (hc : s.FpeCalled) (hrun : s.fpe.state ≠ .idle) (hst : ¬s.fpe.state.AwaitsFlash)
    (hop : s.flashOp = none) (hmask : s.fpe.state ≠ .enter → s.gie = false) : s.EnginesOk where
  called _ := hc
  program _ := hrun
  erasing h := absurd (.inl h) hst
  writing h := absurd (.inr h) hst
  settled _ _ := hop
  flashMasked _ := hmask
  eepromMasked h := absurd h hc.seq_ne_eeprom

/-- The command that FPE waits for in each of its two waits (R164, R165). -/
def Fpe.awaited (f : Fpe) : FlashOp := if f.state = .eraseWait then .erase f.pb else .write f.pb f.pbuf

theorem State.EnginesOk.of_waiting (hc : s.FpeCalled) (hst : s.fpe.state.AwaitsFlash)
    (hop : s.flashOp = some s.fpe.awaited) (hmask : s.gie = false) : s.EnginesOk where
  called _ := hc
  program _ := by obtain h | h := hst <;> simp [h]
  erasing h := by simpa [Fpe.awaited, h] using hop
  writing h := by simpa [Fpe.awaited, h] using hop
  settled h h' := (hst.elim h h').elim
  flashMasked _ _ := hmask
  eepromMasked h := absurd h hc.seq_ne_eeprom

/-! ## The rules -/

/-- FPE's tick goes on in the caller's state or leaves it to CLEAR or HALTED (R166, R195, R225). -/
theorem fpeTick_seq (hc : b.FpeCalled) (h : fpeTick e b = .next t) : t.FpeCalled ∨ t.seq = .clear ∨ t.seq = .halted := by
  have hsame : t.seq = b.seq → t.FpeCalled ∨ t.seq = .clear ∨ t.seq = .halted := fun h => by
    rw [State.FpeCalled, h]
    exact .inl hc
  obtain ⟨-, -, rfl⟩ | ⟨-, -, h⟩ | ⟨-, rfl⟩ | ⟨-, -, rfl⟩ | ⟨-, -, -, rfl⟩ | ⟨-, -, rfl⟩ |
    ⟨-, h⟩ | ⟨-, rfl⟩ | ⟨-, h⟩ | ⟨-, rfl⟩ | ⟨-, rfl⟩ := fpeTick_next h
  · exact hsame rfl
  · obtain ⟨-, rfl⟩ := startMerge_next h
    exact hsame rfl
  · exact hsame rfl
  · obtain ⟨a, ha⟩ := driveReadBack_eq b
    exact hsame (by rw [ha]; rfl)
  · exact hsame rfl
  · exact hsame rfl
  · obtain ⟨-, -, ht, -⟩ := flashCmd_next h
    exact hsame (by rw [ht]; rfl)
  · exact hsame ((apply_ite State.seq _ _ _).trans (ite_self _))
  · obtain ⟨-, -, ht, -⟩ := flashCmd_next h
    exact hsame (by rw [ht]; rfl)
  · exact hsame ((apply_ite State.seq _ _ _).trans (ite_self _))
  · obtain hseq | hseq := hc
    · exact .inr (.inl (congrArg State.seq (fpeDone_program hseq)))
    · exact .inr (.inr (congrArg State.seq (fpeDone_exitP hseq)))

/-- Where FPE is not called it is idle, and nothing is in progress. -/
theorem State.EnginesOk.idle_of_not_called (h : s.EnginesOk) (hc : ¬s.FpeCalled) : s.fpe.state = .idle ∧ s.flashOp = none := by
  have hst : s.fpe.state = .idle := by
    by_contra hne
    exact hc (h.called hne)
  exact ⟨hst, h.settled (by simp [hst]) (by simp [hst])⟩

theorem State.EnginesOk.settled_of_not_awaits (h : s.EnginesOk) (hst : ¬s.fpe.state.AwaitsFlash) : s.flashOp = none :=
  h.settled (fun h' => hst (.inl h')) (fun h' => hst (.inr h'))

/-- The rules of the other engines leave FPE idle. -/
theorem State.EnginesOk.of_other_rule (hb : b.EnginesOk) (hc : ¬b.FpeCalled) (hfpe : t.fpe = b.fpe)
    (hop : t.flashOp = b.flashOp) (hseq : t.seq ≠ .program)
    (hmask : t.seq = .eeprom → t.ee.state ≠ .next → t.gie = false) : t.EnginesOk := by
  obtain ⟨hst, hnone⟩ := hb.idle_of_not_called hc
  exact .of_idle (hfpe ▸ hst) (hop.trans hnone) hseq hmask

theorem bootPoll_enginesOk (hb : b.EnginesOk) (hseq : b.seq = .bootPoll) : (bootPoll e b).EnginesOk := by
  have hc : ¬b.FpeCalled := by simp [State.FpeCalled, hseq]
  obtain ⟨-, h⟩ | ⟨-, -, h⟩ | ⟨-, -, h⟩ := bootPoll_cases e b <;> rw [h]
  · exact hb.of_other_rule hc rfl rfl (by simp) (by simp)
  · exact hb.of_other_rule hc rfl rfl (by simp) (by simp)
  · exact hb.of_other_rule hc rfl rfl (by simp [hseq]) (by simp [hseq])

theorem rxTick_enginesOk (hb : b.EnginesOk) (hseq : b.seq = .receive) : (rxTick e b).EnginesOk := by
  have hc : ¬b.FpeCalled := by simp [State.FpeCalled, hseq]
  obtain ⟨rx, tmr, frame, seq, h, hto⟩ := rxTick_frame e b
  rw [h]
  obtain rfl | ⟨rfl, -⟩ := hto
  · exact hb.of_other_rule hc rfl rfl (by simp [hseq]) (by simp [hseq])
  · exact hb.of_other_rule hc rfl rfl (by simp) (by simp)

theorem decodeTick_enginesOk (hb : b.EnginesOk) (hseq : b.seq = .decode) (h : decodeTick b = .next t) : t.EnginesOk := by
  have hc : ¬b.FpeCalled := by simp [State.FpeCalled, hseq]
  obtain ⟨-, h'⟩ | ⟨-, h' | ⟨f, -, -, h'⟩ | ⟨f, -, h'⟩ | ⟨f, -, h'⟩⟩ := decodeTick_cases b <;> rw [h'] at h <;> cases h
  · exact hb.of_other_rule hc rfl rfl (by simp) (by simp)
  · exact hb.of_other_rule hc rfl rfl (by simp) (by simp)
  · obtain ⟨-, hnone⟩ := hb.idle_of_not_called hc
    exact .of_working (.inl rfl) (by simp [startPage]) (by simp [startPage, FpeState.AwaitsFlash]) hnone
      (by simp [startPage])
  · exact hb.of_other_rule hc rfl rfl (by simp) (by simp)
  · exact hb.of_other_rule hc rfl rfl (by simp) (by simp)

theorem eeTick_enginesOk (hb : b.EnginesOk) (hseq : b.seq = .eeprom) : (eeTick e b).EnginesOk := by
  have hc : ¬b.FpeCalled := by simp [State.FpeCalled, hseq]
  obtain ⟨-, -, h⟩ | ⟨-, -, h⟩ | ⟨-, -, h⟩ | ⟨hst, -, h⟩ | ⟨-, h⟩ := eeTick_cases e b <;> rw [h]
  · exact hb.of_other_rule hc rfl rfl (by simp) (by simp)
  · exact hb.of_other_rule hc rfl rfl (by simp [hseq]) (by simp)
  · exact hb
  · exact hb.of_other_rule hc rfl rfl (by simp [hseq]) fun _ _ => hb.eepromMasked hseq (by simp [hst])
  · exact hb.of_other_rule hc rfl rfl (by simp [eeAdvance, hseq]) (by simp [eeAdvance])

/-- FPE moves on to a state in which it works. -/
theorem State.EnginesOk.of_fpe_rule (hb : b.EnginesOk) (hc : b.FpeCalled) (hst : ¬b.fpe.state.AwaitsFlash)
    (hop : t.flashOp = b.flashOp) (hseq : t.seq = b.seq) (hrun : t.fpe.state ≠ .idle)
    (hst' : ¬t.fpe.state.AwaitsFlash) (hmask : t.fpe.state ≠ .enter → t.gie = false) : t.EnginesOk :=
  .of_working (by rwa [State.FpeCalled, hseq]) hrun hst' (hop.trans (hb.settled_of_not_awaits hst)) hmask

/-- FPE issues a command and waits for it. -/
theorem State.EnginesOk.of_flashCmd {v : FpeState} (hb : b.EnginesOk) (hc : b.FpeCalled) (hrun : b.fpe.state ≠ .idle)
    (henter : b.fpe.state ≠ .enter) (hv : v.AwaitsFlash)
    (h : (b.fpeGoto v).flashCmd { b.fpe with state := v }.awaited = .next t) : t.EnginesOk := by
  obtain ⟨-, -, ht, -⟩ := flashCmd_next h
  rw [ht]
  exact .of_waiting hc hv rfl (hb.flashMasked hrun henter)

/-- DONE leaves FPE idle (R166). -/
theorem fpeDone_enginesOk (hc : b.FpeCalled) (hop : b.flashOp = none) : (fpeDone b).EnginesOk := by
  obtain hseq | hseq := hc
  · rw [fpeDone_program hseq]
    exact .of_idle rfl hop (by simp) (by simp)
  · rw [fpeDone_exitP hseq]
    exact .of_idle rfl hop (by simp) (by simp)

theorem fpeEnter_enginesOk (hb : b.EnginesOk) (hc : b.FpeCalled) (hst : b.fpe.state = .enter) :
    (fpeEnter b).EnginesOk := by
  have hawaits : ¬b.fpe.state.AwaitsFlash := by simp [FpeState.AwaitsFlash, hst]
  cases hmode : b.fpe.mode
  · exact hb.of_fpe_rule hc hawaits rfl rfl (by simp [fpeEnter, hmode]) (by simp [fpeEnter, hmode, FpeState.AwaitsFlash])
      fun _ => rfl
  · exact hb.of_fpe_rule hc hawaits rfl rfl (by simp [fpeEnter, hmode]) (by simp [fpeEnter, hmode, FpeState.AwaitsFlash])
      fun _ => rfl

/-- FPE's tick, where a wait is not at its end. -/
theorem fpeTick_enginesOk (hb : b.EnginesOk) (hc : b.FpeCalled) (hheld : b.fpe.state.AwaitsFlash → e.flBusy = true)
    (h : fpeTick e b = .next t) : t.EnginesOk := by
  have hmask : b.fpe.state ≠ .idle → b.fpe.state ≠ .enter → b.gie = false := hb.flashMasked
  have hset := hb.settled_of_not_awaits
  obtain ⟨-, -, rfl⟩ | ⟨hst, hseq, h⟩ | ⟨hst, rfl⟩ | ⟨hst, -, rfl⟩ | ⟨hst, -, -, rfl⟩ | ⟨hst, -, rfl⟩ |
    ⟨hst, h⟩ | ⟨hst, rfl⟩ | ⟨hst, h⟩ | ⟨hst, rfl⟩ | ⟨hst, rfl⟩ := fpeTick_next h
  · exact hb
  · obtain ⟨-, rfl⟩ := startMerge_next h
    exact hb.of_fpe_rule hc (by simp [FpeState.AwaitsFlash, hst]) rfl rfl (by simp) (by simp [FpeState.AwaitsFlash])
      (by simp)
  · exact fpeEnter_enginesOk hb hc hst
  · obtain ⟨a, ha⟩ := driveReadBack_eq b
    rw [ha]
    exact hb.of_fpe_rule hc (by simp [FpeState.AwaitsFlash, hst]) rfl rfl (by simp) (by simp [FpeState.AwaitsFlash])
      fun _ => hmask (by simp [hst]) (by simp [hst])
  · exact hb.of_fpe_rule hc (by simp [FpeState.AwaitsFlash, hst]) rfl rfl (by simp [interceptWord])
      (by simp [interceptWord, FpeState.AwaitsFlash]) fun _ => hmask (by simp [hst]) (by simp [hst])
  · exact hb.of_fpe_rule hc (by simp [FpeState.AwaitsFlash, hst]) rfl rfl (by simp [interceptSkip])
      (by simp [interceptSkip, FpeState.AwaitsFlash]) fun _ => hmask (by simp [hst]) (by simp [hst])
  · exact hb.of_flashCmd hc (by simp [hst]) (by simp [hst]) (.inl rfl) h
  · rw [fpeEraseWait, if_pos (hheld (.inl hst))]
    exact hb
  · exact hb.of_flashCmd hc (by simp [hst]) (by simp [hst]) (.inr rfl) h
  · rw [fpeWriteWait, if_pos (hheld (.inr hst))]
    exact hb
  · exact fpeDone_enginesOk hc (hset (by simp [FpeState.AwaitsFlash, hst]))

/-- Every rule, where FPE is not at the end of a wait. -/
theorem activeRule_enginesOk (hb : b.EnginesOk) (hheld : b.fpe.state.AwaitsFlash → e.flBusy = true)
    (hv : ParamsValid b.params) (ht : b.seq.terminal = false) (h : activeRule e b = .next t) : t.EnginesOk := by
  obtain ⟨hseq, rfl⟩ | ⟨hseq, rfl⟩ | ⟨hseq, rfl⟩ | ⟨hseq, h⟩ | ⟨hc, h⟩ | ⟨hseq, rfl⟩ | ⟨hseq, rfl⟩ | ⟨hseq, h⟩ :=
    activeRule_next ht h
  · exact hb.of_other_rule (by simp [State.FpeCalled, hseq]) rfl rfl (by simp [bootStart]) (by simp [bootStart])
  · exact bootPoll_enginesOk hb hseq
  · exact rxTick_enginesOk hb hseq
  · exact decodeTick_enginesOk hb hseq h
  · exact fpeTick_enginesOk hb hc hheld h
  · exact eeTick_enginesOk hb hseq
  · exact hb.of_other_rule (by simp [State.FpeCalled, hseq]) rfl rfl (by simp [csqClear]) (by simp [csqClear])
  · rw [exitNp_eq hv] at h
    cases h
    exact hb.of_other_rule (by simp [State.FpeCalled, hseq]) rfl rfl (by simp) (by simp)

/-! ## The step -/

/-- A tick begun completes nothing, or what it completes is the command FPE waits for. -/
theorem State.EnginesOk.flashController_cases (h : s.EnginesOk) (e : Inputs) :
    (s.flashController e = s ∧ (s.fpe.state.AwaitsFlash → e.flBusy = true)) ∨
      (s.fpe.state.AwaitsFlash ∧ e.flBusy = false ∧ (s.flashController e).flashOp = none) := by
  cases he : e.flBusy with
  | true => exact .inl ⟨flashController_busy he, fun _ => rfl⟩
  | false =>
    by_cases hst : s.fpe.state.AwaitsFlash
    · refine .inr ⟨hst, rfl, ?_⟩
      cases hop : s.flashOp with
      | none => rwa [flashController_idle hop]
      | some op => rw [flashController_free hop he]
    · exact .inl ⟨flashController_idle (h.settled_of_not_awaits hst), fun h' => absurd h' hst⟩

/-- A tick begun at which nothing completes. -/
theorem State.EnginesOk.beginTick (h : s.EnginesOk) (hheld : s.flashController e = s) : (s.beginTick e).EnginesOk where
  called := by simpa [State.FpeCalled] using h.called
  program := by simpa using h.program
  erasing := by simpa [hheld] using h.erasing
  writing := by simpa [hheld] using h.writing
  settled := by simpa [hheld] using h.settled
  flashMasked := by simpa using h.flashMasked
  eepromMasked := by simpa using h.eepromMasked

/-- The tick at which FPE's command completes: the wait is left (R164, R165). -/
theorem fpeTick_completion_enginesOk (hc : b.FpeCalled) (hst : b.fpe.state.AwaitsFlash) (he : e.flBusy = false)
    (hop : b.flashOp = none) (hmask : b.gie = false) (h : fpeTick e b = .next t) : t.EnginesOk := by
  rw [fpeTick_wait_free hst he] at h
  cases h
  refine .of_working hc ?_ ?_ hop fun _ => hmask
  · obtain hst | hst := hst <;> simp [hst, FpeState.afterWait]
  · obtain hst | hst := hst <;> simp [hst, FpeState.afterWait, FpeState.AwaitsFlash]

end

/-- Settles O55: either nothing completes at the tick and the rule keeps the kind of the state, or FPE leaves its wait. -/
theorem enginesStayDisciplined : Obligations.EnginesStayDisciplined := by
  intro s t hs h
  refine step_cases h (fun seq hseq => ?_) (fun helse => ?_) fun hv ht hr => ?_
  · exact .of_idle rfl rfl (by obtain rfl | rfl := hseq <;> simp [State.afterReset])
      (by obtain rfl | rfl := hseq <;> simp [State.afterReset])
  · have hc : ¬s.FpeCalled := by rintro (hc | hc) <;> simp [hc, Seq.cpuElsewhere] at helse
    exact hs.beginTick (flashController_idle (hs.idle_of_not_called hc).2)
  · obtain ⟨hheld, hbusy⟩ | ⟨hst, hfree, hop⟩ := hs.flashController_cases s.now
    · exact activeRule_enginesOk (hs.beginTick hheld) (by simpa using hbusy) (by simpa using hv) (by simpa using ht) hr
    · have hrun : s.fpe.state ≠ .idle := by obtain h | h := hst <;> simp [h]
      have henter : s.fpe.state ≠ .enter := by obtain h | h := hst <;> simp [h]
      have hc : (s.beginTick s.now).FpeCalled := by simpa [State.FpeCalled] using hs.called hrun
      have hr' : fpeTick s.now (s.beginTick s.now) = .next t := by
        obtain hseq | hseq := hc <;> rwa [activeRule_seq _ _ _ hseq] at hr
      exact fpeTick_completion_enginesOk hc (by simpa using hst) hfree (by simpa using hop)
        (by simpa using hs.flashMasked hrun henter) hr'

end Sys2Proof.Machine
end

section
/-! SUPPORT. The receiver tick by tick: calibration (R124, R125), the marker (R127, R130), the data bits (R132 to R134), the
ranges its registers keep (R23, R141), and the line code's independence of the level (R90). -/

namespace Sys2Proof.Machine

/-! ## Calibration -/

/-- Within the ranges of a calibration the sum of intervals does not wrap (R124). -/
theorem Rx.sumWith_toNat_of_range {r : Rx} (hn : r.n.toNat < 16) (hs : r.s.toNat ≤ 255 * (r.n.toNat - 8)) (t : BitVec 8) :
    (r.sumWith t).toNat = r.s.toNat + if 8 ≤ r.n.toNat then t.toNat else 0 := by
  unfold Rx.sumWith
  split
  · rw [BitVec.toNat_add, BitVec.toNat_setWidth]
    omega
  · rfl

/-- The sum keeps the bound that the number of intervals gives it (R141). -/
theorem Rx.sumWith_le {r : Rx} (hn : r.n.toNat < 16) (hs : r.s.toNat ≤ 255 * (r.n.toNat - 8)) (t : BitVec 8) :
    (r.sumWith t).toNat ≤ 255 * (r.n.toNat + 1 - 8) := by
  rw [Rx.sumWith_toNat_of_range hn hs]
  split <;> omega

/-- The delay of a sum of eight intervals is not cut to 8 bits (R125, R141). -/
theorem samplingDelay_toNat_of_le {x : BitVec 11} (hx : x.toNat ≤ 2040) : (samplingDelay x).toNat = 3 * x.toNat / 32 := by
  rw [samplingDelay, BitVec.toNat_ofNat]
  omega

/-- Settles O31: an edge in CAL counts the interval, and the sixteenth one ends the calibration. -/
theorem calibrationMeasuresTheBitPeriod : Obligations.CalibrationMeasuresTheBitPeriod := by
  intro s hv hq hok hs hentry hst hl
  obtain ⟨hn, hsum⟩ := hok.calibrating hs hentry hst
  have hadd := Rx.sumWith_toNat_of_range hn hsum (s.tmr + 1)
  have hle := Rx.sumWith_le hn hsum (s.tmr + 1)
  have htmr : (s.tmr + 1).toNat = (s.tmr.toNat + 1) % 256 := BitVec.toNat_add ..
  rw [htmr] at hadd
  have hinterval : intervalSum (s.beginTick s.now) = s.rx.sumWith (s.tmr + 1) := by
    rw [intervalSum_eq, beginTick_rx, beginTick_tmr]
  have hn1 : (s.rx.n + 1).toNat = s.rx.n.toNat + 1 := by bv_omega
  rw [← beginTick_rx s s.now] at hentry hst hl
  rw [step_receive hv hq hs]
  by_cases hlast : s.rx.n.toNat = 15
  · have hn16 : (s.beginTick s.now).rx.n + 1 = 16 := by
      rw [beginTick_rx]
      bv_omega
    rw [rxTick_cal_last_edge hentry hst hl hn16, hinterval, beginTick_rx]
    refine ⟨_, rfl, rfl, rfl, ?_, hadd, fun h => ?_, fun _ => ⟨rfl, samplingDelay_toNat_of_le ?_⟩, rfl, rfl,
      beginTick_frame .., (beginTick_seq ..).trans hs⟩
    · simp [hlast]
    · omega
    · omega
  · have hn16 : (s.beginTick s.now).rx.n + 1 ≠ 16 := by
      rw [beginTick_rx]
      bv_omega
    rw [rxTick_cal_edge hentry hst hl hn16, hinterval, beginTick_rx]
    refine ⟨_, rfl, rfl, rfl, hn1, hadd, fun _ => ⟨by simpa using hst, rfl⟩, fun h => absurd h hlast, rfl, rfl,
      beginTick_frame .., (beginTick_seq ..).trans hs⟩

/-! ## Samples -/

/-- The sampling instant, on the begun tick's timer (R121, R126). -/
theorem beginTick_tmr_toNat (e : Inputs) (s : State) : (s.beginTick e).tmr.toNat = (s.tmr.toNat + 1) % 256 := by
  rw [beginTick_tmr]
  exact BitVec.toNat_add ..

/-- Settles O32: before the sampling instant nothing moves, and at it the sample decides. -/
theorem markerIsTheFirstOneCell : Obligations.MarkerIsTheFirstOneCell := by
  intro s hv hq hs hentry hst
  have hb := beginTick_rx s s.now
  have ht := beginTick_tmr_toNat s.now s
  rw [step_receive hv hq hs]
  generalize s.beginTick s.now = b at *
  rw [← hb] at hentry hst
  rw [← hb, ← ht]
  refine ⟨fun hd => ?_, fun hd hl => ?_, fun hd hl => ?_⟩
  · rw [rxTick_before_sample hentry (.inl hst) (BitVec.lt_def.mpr hd)]
  · rw [rxTick_marker_sample hentry hst (BitVec.le_def.mpr hd) hl]
  · rw [rxTick_training_sample hentry hst (BitVec.le_def.mpr hd) hl]

/-- Settles O33: the sample is written as one bit of FRAME, and the last one ends the reception. -/
theorem dataBitIsSampledAndPacked : Obligations.DataBitIsSampledAndPacked := by
  intro s hv hq hs hentry hst hi
  have hbits : ∀ i, i < 568 → dataBit (putDataBit s.frame s.rx.bitcnt.toNat (s.now.rxIn != s.rx.l)) i =
      if i = s.rx.bitcnt.toNat then s.now.rxIn != s.rx.l else dataBit s.frame i :=
    fun i h => dataBit_putDataBit s.frame _ hi h
  have hcnt : (s.rx.bitcnt + 1).toNat = s.rx.bitcnt.toNat + 1 := by bv_omega
  have hedge : (s.beginTick s.now).edge s.now = (s.now.rxIn != s.rx.l) := by rw [State.edge, beginTick_rx]
  have hb := beginTick_rx s s.now
  have hf := beginTick_frame s s.now
  have ht := beginTick_tmr_toNat s.now s
  have hseq := (beginTick_seq s s.now).trans hs
  rw [step_receive hv hq hs]
  generalize s.beginTick s.now = b at *
  rw [← hb] at hentry hst hi hcnt hedge hbits
  rw [← hf] at hbits
  rw [← hb, ← ht, ← hf]
  refine ⟨fun hd => ?_, fun hd => ?_⟩
  · rw [rxTick_before_sample hentry (.inr hst) (BitVec.lt_def.mpr hd)]
  · by_cases hlast : b.rx.bitcnt.toNat + 1 = 568
    · rw [rxTick_last_data_sample hentry hst (BitVec.le_def.mpr hd) hlast, hedge]
      exact ⟨_, rfl, hbits, rfl, hcnt, rfl, rfl, fun h => by omega, fun _ => ⟨rfl, rfl⟩⟩
    · rw [rxTick_data_sample hentry hst (BitVec.le_def.mpr hd) hlast, hedge]
      exact ⟨_, rfl, hbits, rfl, hcnt, rfl, rfl, fun _ => ⟨hseq, rfl, rfl⟩, fun h => by omega⟩

/-! ## A whole reception tick -/

/-- Settles O34: a reception tick writes the receiver's registers, TMR, FRAME and SEQ on the begun tick. -/
theorem receptionTouchesOnlyTheReceiver : Obligations.ReceptionTouchesOnlyTheReceiver := by
  intro s hv hq hs
  obtain ⟨rx, tmr, frame, seq, h, hto⟩ := rxTick_frame s.now (s.beginTick s.now)
  rw [step_receive hv hq hs, h]
  refine ⟨_, rfl, ?_, beginTick_fpe .., ⟨beginTick_gie s s.now, beginTick_gieSave s s.now⟩, beginTick_entryT ..,
    beginTick_ee .., beginTick_bsq .., beginTick_ev .., rfl,
    ⟨beginTick_params s s.now, beginTick_inputs s s.now, beginTick_tick s s.now⟩, fun hop heop => ?_⟩
  · obtain rfl | ⟨rfl, -⟩ := hto
    · exact .inl (by simpa using hs)
    · exact .inr rfl
  · exact (sameArrays_beginTick hop heop).trans ⟨fun _ => rfl, fun _ => rfl, rfl, rfl⟩

/-! ## A data cell -/

/-- What the sample of a data cell, not the last one, makes of registers r and a frame f (R132, R133). -/
structure CellDecoded (r : Rx) (f : FrameBuf) (sample : Inputs) (rest : List Inputs) (t : State) : Prop where
  seq : t.seq = .receive
  rx : t.rx = { r with l := sample.rxIn, bitcnt := r.bitcnt + 1, state := .dataEdge }
  frame : t.frame = putDataBit f r.bitcnt.toNat (sample.rxIn != r.l)
  inputs : t.inputs = rest

/-- A quiet tick of RX, on the inputs to come. -/
theorem step_receive_cons {s : State} {e : Inputs} {es : List Inputs} (hv : ParamsValid s.params) (hs : s.seq = .receive)
    (hin : s.inputs = e :: es) (hq : e.event = .quiet) : step s = .next (rxTick e (s.beginTick e)) := by
  have hnow := now_cons hin
  rw [step_receive hv (hnow ▸ hq) hs, hnow]

/-- From inside a cell to its sample: the levels before the sampling instant are not looked at (R126, R138). -/
theorem dataDelay_reaches_sample {sample : Inputs} {rest between : List Inputs} : ∀ {s : State}, ParamsValid s.params →
    s.seq = .receive → s.rx.entry = false → s.rx.state = .dataDelay → s.rx.bitcnt.toNat < 567 →
    s.inputs = between ++ sample :: rest → AllQuiet (between ++ [sample]) →
    s.tmr.toNat + (between.length + 1) = max s.rx.d.toNat 1 →
    Reaches (between.length + 1) (CellDecoded s.rx s.frame sample rest) s := by
  induction between with
  | nil =>
    intro s hv hs hentry hst hi hin hq ht
    have hstep := step_receive_cons hv hs hin (hq sample (by simp))
    have hdue : s.rx.d ≤ s.tmr + 1 := by
      rw [List.length_nil] at ht
      bv_omega
    rw [← beginTick_rx s sample] at hentry hst hi hdue
    rw [rxTick_data_sample hentry hst (by rwa [beginTick_tmr]) (by omega)] at hstep
    refine .step hstep (.zero ⟨(beginTick_seq ..).trans hs, by rw [beginTick_rx], ?_, by simp [hin]⟩)
    rw [State.edge, beginTick_rx, beginTick_frame]
  | cons e between ih =>
    intro s hv hs hentry hst hi hin hq ht
    obtain ⟨hqe, hq⟩ := List.forall_mem_cons.mp hq
    have hstep := step_receive_cons hv hs hin hqe
    rw [List.length_cons] at ht
    have htmr : (s.tmr + 1).toNat = s.tmr.toNat + 1 := by bv_omega
    have hearly : s.tmr + 1 < s.rx.d := by
      rw [BitVec.lt_def]
      omega
    rw [rxTick_before_sample (by simpa using hentry) (.inr (by simpa using hst)) (by simpa using hearly)] at hstep
    have hrest := ih (s := s.beginTick e) (by simpa using hv) (by simpa using hs) (by simpa using hentry)
      (by simpa using hst) (by simpa using hi) (by simp [hin]) hq (by rw [beginTick_tmr, beginTick_rx]; omega)
    rw [beginTick_rx, beginTick_frame] at hrest
    exact .step hstep hrest

/-- Settles O35: the boundary sets the timer to 0, and the sample comes at the first instant that is due. -/
theorem cellIsDecodedAtItsSampleTick : Obligations.CellIsDecodedAtItsSampleTick := by
  intro s boundary between sample rest hv hs hentry hst hi hin hq hl hlen
  obtain ⟨hqb, hq⟩ := List.forall_mem_cons.mp hq
  have hstep := step_receive_cons hv hs hin hqb
  rw [rxTick_dataEdge_edge (by simpa using hentry) (by simpa using hst) (by simpa using hl), beginTick_rx] at hstep
  have hcell := dataDelay_reaches_sample (sample := sample) (rest := rest) (between := between)
    (s := { s.beginTick boundary with rx := { s.rx with l := boundary.rxIn, state := .dataDelay }, tmr := 0 })
    (by simpa using hv) (by simpa using hs) hentry rfl hi (by simp [hin]) hq (by simpa using hlen)
  obtain ⟨t, hrun, hseq, hrx, hframe, hinputs⟩ := Reaches.step hstep hcell
  refine ⟨t, by rwa [← hlen], hseq, by rw [hrx], by rw [hrx], by rw [hrx], by rw [hrx]; exact hentry, ?_, hinputs,
    fun i h => ?_⟩
  · rw [hrx]
    dsimp only
    bv_omega
  · rw [hframe, beginTick_frame]
    exact dataBit_putDataBit s.frame _ (Nat.lt_succ_of_lt hi) h

/-! ## The complemented line -/

/-- The draws of a tick with the line level complemented (R90). -/
def Inputs.complement (e : Inputs) : Inputs := { e with rxIn := !e.rxIn }

section
variable {e : Inputs} {s : State}

theorem edge_complement : s.complementLine.edge (Inputs.complement e) = s.edge e := Bool.not_bne_not ..

theorem complementLine_ite {P : Prop} [Decidable P] (a b : State) :
    (if P then a else b).complementLine = if P then a.complementLine else b.complementLine := apply_ite ..

theorem rxWaitE0_complement :
    rxWaitE0 (Inputs.complement e) s.complementLine = (rxWaitE0 e s).complementLine := by
  rw [rxWaitE0, rxWaitE0, edge_complement, complementLine_ite]
  rfl

theorem rxCal_complement : rxCal (Inputs.complement e) s.complementLine = (rxCal e s).complementLine := by
  rw [rxCal, rxCal, edge_complement, complementLine_ite]
  refine ite_congr rfl (fun _ => ?_) fun _ => rfl
  by_cases hn : s.rx.n + 1 = 16
  · simp only [if_pos hn, if_pos (show s.complementLine.rx.n + 1 = 16 from hn)]
    rfl
  · simp only [if_neg hn, if_neg (show ¬s.complementLine.rx.n + 1 = 16 from hn)]
    rfl

theorem rxMarkDelay_complement :
    rxMarkDelay (Inputs.complement e) s.complementLine = (rxMarkDelay e s).complementLine := by
  rw [rxMarkDelay, rxMarkDelay, edge_complement, complementLine_ite, complementLine_ite]
  rfl

theorem rxMarkEdge_complement :
    rxMarkEdge (Inputs.complement e) s.complementLine = (rxMarkEdge e s).complementLine := by
  rw [rxMarkEdge, rxMarkEdge, edge_complement, complementLine_ite]
  rfl

theorem rxDataEdge_complement :
    rxDataEdge (Inputs.complement e) s.complementLine = (rxDataEdge e s).complementLine := by
  rw [rxDataEdge, rxDataEdge, edge_complement, complementLine_ite]
  rfl

theorem rxDataDelay_complement :
    rxDataDelay (Inputs.complement e) s.complementLine = (rxDataDelay e s).complementLine := by
  rw [rxDataDelay, rxDataDelay, edge_complement]
  dsimp only
  rw [complementLine_ite, complementLine_ite]
  rfl

/-- RX looks at levels only to compare them (R90, R121). -/
theorem rxTick_complement : rxTick (Inputs.complement e) s.complementLine = (rxTick e s).complementLine := by
  have hrx : s.complementLine.rx = { s.rx with l := !s.rx.l } := rfl
  cases hentry : s.rx.entry with
  | true =>
    rw [rxTick_entry hentry, rxTick_entry (by rw [hrx, hentry])]
    rfl
  | false =>
    rw [rxTick_state hentry _ rfl, rxTick_state (by rw [hrx, hentry]) s.rx.state (by rw [hrx])]
    cases s.rx.state with
    | waitE0 => exact rxWaitE0_complement
    | cal => exact rxCal_complement
    | markDelay => exact rxMarkDelay_complement
    | markEdge => exact rxMarkEdge_complement
    | dataEdge => exact rxDataEdge_complement
    | dataDelay => exact rxDataDelay_complement

/-- The controllers do not see the line. -/
theorem beginTick_complement : s.complementLine.beginTick (Inputs.complement e) = (s.beginTick e).complementLine := by
  have hflash : s.complementLine.flashController (Inputs.complement e) = (s.flashController e).complementLine := by
    rw [State.flashController, State.flashController, show s.complementLine.flashOp = s.flashOp from rfl,
      show (Inputs.complement e).flBusy = e.flBusy from rfl]
    cases s.flashOp with
    | none => rfl
    | some op => cases e.flBusy <;> rfl
  have heeprom : ∀ t : State,
      t.complementLine.eepromCollaborator (Inputs.complement e) = (t.eepromCollaborator e).complementLine := by
    intro t
    rw [State.eepromCollaborator, State.eepromCollaborator, show t.complementLine.eepromOp = t.eepromOp from rfl,
      show (Inputs.complement e).eeBusy = e.eeBusy from rfl]
    cases t.eepromOp with
    | none => rfl
    | some op => cases e.eeBusy <;> rfl
  rw [State.beginTick, State.beginTick, State.environmentTick, State.environmentTick, hflash, heeprom]
  simp [State.complementLine]

/-- A scripted tick's draws are complemented with the script. -/
theorem now_complementLine (h : s.inputs ≠ []) : s.complementLine.now = Inputs.complement s.now := by
  obtain ⟨e, es, hin⟩ := List.exists_cons_of_ne_nil h
  rw [now_cons hin, now_cons (s := s.complementLine) (e := Inputs.complement e) (es := es.map Inputs.complement)]
  simp [State.complementLine, hin, Inputs.complement]

end

/-- Settles O36: the begun tick and RX's rule commute with the complement of the line. -/
theorem complementedLineDecodesAlike : Obligations.ComplementedLineDecodesAlike := by
  intro s hin hq hs
  have hnow := now_complementLine hin
  by_cases hv : ParamsValid s.params
  · rw [step_receive hv hq hs, step_receive (s := s.complementLine) hv (by rw [hnow]; exact hq) hs, hnow,
      beginTick_complement, rxTick_complement]
    rfl
  · rw [step_badParams hv, step_badParams (s := s.complementLine) hv]
    rfl

/-! ## The ranges of the receiver's registers -/

section
variable {s b t : State} {e : Inputs}

/-- Outside RECEIVE, DECODE and FATAL nothing is asked of the receiver. -/
theorem State.ReceiverOk.of_seq (h : s.seq ≠ .receive) (hd : s.seq ≠ .decode) (hf : s.seq ≠ .fatal) : s.ReceiverOk :=
  ⟨fun h' => absurd h' h, fun h' => absurd h' h, fun h' => absurd h' h, fun h' => absurd h' hd, hf⟩

/-- At the entry of RECEIVE the registers may hold anything (R122). -/
theorem State.ReceiverOk.of_entry (h : s.seq = .receive) (hentry : s.rx.entry = true) : s.ReceiverOk :=
  ⟨fun _ h' => by simp [hentry] at h', fun _ h' => by simp [hentry] at h', fun _ h' => by simp [hentry] at h',
    fun h' => by simp [h] at h', by simp [h]⟩

theorem State.ReceiverOk.of_waitE0 (h : s.seq = .receive) (hst : s.rx.state = .waitE0) : s.ReceiverOk where
  calibrating _ _ h' := by simp [hst] at h'
  measured _ _ h' := absurd hst h'
  counting _ _ h' := by simp [hst] at h'
  received h' := by simp [h] at h'
  notFatal := by simp [h]

theorem State.ReceiverOk.of_cal (h : s.seq = .receive) (hst : s.rx.state = .cal) (hn : s.rx.n.toNat < 16)
    (hs : s.rx.s.toNat ≤ 255 * (s.rx.n.toNat - 8)) : s.ReceiverOk where
  calibrating _ _ _ := ⟨hn, hs⟩
  measured _ _ _ h' := absurd hst h'
  counting _ _ h' := by simp [hst] at h'
  received h' := by simp [h] at h'
  notFatal := by simp [h]

/-- Once the delay is measured, only the data states ask for more. -/
theorem State.ReceiverOk.of_measured (h : s.seq = .receive) (hst : s.rx.state ≠ .cal) (hd : s.rx.d.toNat ≤ 191)
    (hcnt : s.rx.state = .dataEdge ∨ s.rx.state = .dataDelay → s.rx.bitcnt.toNat < 568) : s.ReceiverOk where
  calibrating _ _ h' := absurd h' hst
  measured _ _ _ _ := hd
  counting _ _ := hcnt
  received h' := by simp [h] at h'
  notFatal := by simp [h]

theorem State.ReceiverOk.of_decode (h : s.seq = .decode) (hok : s.rx.ok = true) : s.ReceiverOk where
  calibrating h' := by simp [h] at h'
  measured h' := by simp [h] at h'
  counting h' := by simp [h] at h'
  received _ := hok
  notFatal := by simp [h]

/-- An edge in CAL: the ranges grow with the interval, and at the sixteenth the delay is within its own (R124, R125). -/
theorem rxTick_cal_receiverOk (hb : b.ReceiverOk) (hs : b.seq = .receive) (hentry : b.rx.entry = false)
    (hst : b.rx.state = .cal) (hl : e.rxIn ≠ b.rx.l) : (rxTick e b).ReceiverOk := by
  obtain ⟨hn, hsum⟩ := hb.calibrating hs hentry hst
  have hle : (intervalSum b).toNat ≤ 255 * (b.rx.n.toNat + 1 - 8) := Rx.sumWith_le hn hsum b.tmr
  by_cases hlast : b.rx.n + 1 = 16
  · rw [rxTick_cal_last_edge hentry hst hl hlast]
    refine .of_measured hs (by simp) ?_ (by simp)
    have hsum16 : (intervalSum b).toNat ≤ 2040 := by omega
    have hd := samplingDelay_toNat_of_le hsum16
    dsimp only
    omega
  · rw [rxTick_cal_edge hentry hst hl hlast]
    have hn1 : (b.rx.n + 1).toNat = b.rx.n.toNat + 1 := by bv_omega
    refine .of_cal hs hst ?_ ?_
    · dsimp only
      bv_omega
    · rwa [← hn1] at hle

/-- The sample of a data cell: one more bit, or the end of the reception (R132, R134). -/
theorem rxTick_data_receiverOk (hb : b.ReceiverOk) (hs : b.seq = .receive) (hentry : b.rx.entry = false)
    (hst : b.rx.state = .dataDelay) (hd : b.rx.d ≤ b.tmr) : (rxTick e b).ReceiverOk := by
  have hdelay := hb.measured hs hentry (by simp [hst]) (by simp [hst])
  have hcnt := hb.counting hs hentry (.inr hst)
  by_cases hlast : b.rx.bitcnt.toNat + 1 = 568
  · rw [rxTick_last_data_sample hentry hst hd hlast]
    exact .of_decode rfl rfl
  · rw [rxTick_data_sample hentry hst hd hlast]
    refine .of_measured hs (by simp) hdelay fun _ => ?_
    dsimp only
    bv_omega

/-- Every tick of RX keeps the ranges. -/
theorem rxTick_receiverOk (hb : b.ReceiverOk) (hs : b.seq = .receive) : (rxTick e b).ReceiverOk := by
  cases hentry : b.rx.entry with
  | true =>
    rw [rxTick_entry hentry]
    exact .of_waitE0 hs rfl
  | false =>
    cases hst : b.rx.state with
    | waitE0 =>
      by_cases hl : e.rxIn = b.rx.l
      · rwa [rxTick_no_edge hentry (.inl hst) hl]
      · rw [rxTick_waitE0_edge hentry hst hl]
        exact .of_cal hs rfl (by simp) (by simp)
    | cal =>
      by_cases hl : e.rxIn = b.rx.l
      · rwa [rxTick_no_edge hentry (.inr (.inl hst)) hl]
      · exact rxTick_cal_receiverOk hb hs hentry hst hl
    | markDelay =>
      have hdelay := hb.measured hs hentry (by simp [hst]) (by simp [hst])
      by_cases hd : b.rx.d ≤ b.tmr
      · by_cases hl : e.rxIn = b.rx.l
        · rw [rxTick_training_sample hentry hst hd hl]
          exact .of_measured hs (by simp) hdelay (by simp)
        · rw [rxTick_marker_sample hentry hst hd hl]
          exact .of_measured hs (by simp) hdelay (by simp)
      · rwa [rxTick_before_sample hentry (.inl hst) (BitVec.not_le.mp hd)]
    | markEdge =>
      have hdelay := hb.measured hs hentry (by simp [hst]) (by simp [hst])
      by_cases hl : e.rxIn = b.rx.l
      · rwa [rxTick_no_edge hentry (.inr (.inr (.inl hst))) hl]
      · rw [rxTick_markEdge_edge hentry hst hl]
        exact .of_measured hs (by simp) hdelay (by simp)
    | dataEdge =>
      have hdelay := hb.measured hs hentry (by simp [hst]) (by simp [hst])
      by_cases hl : e.rxIn = b.rx.l
      · rwa [rxTick_no_edge hentry (.inr (.inr (.inr hst))) hl]
      · rw [rxTick_dataEdge_edge hentry hst hl]
        exact .of_measured hs (by simp) hdelay fun _ => hb.counting hs hentry (.inl hst)
    | dataDelay =>
      by_cases hd : b.rx.d ≤ b.tmr
      · exact rxTick_data_receiverOk hb hs hentry hst hd
      · rwa [rxTick_before_sample hentry (.inr hst) (BitVec.not_le.mp hd)]

theorem receiverOk_beginTick (h : s.ReceiverOk) : (s.beginTick e).ReceiverOk where
  calibrating := by simpa using h.calibrating
  measured := by simpa using h.measured
  counting := by simpa using h.counting
  received := by simpa using h.received
  notFatal := by simpa using h.notFatal

/-- The rules of the other engines ask nothing of the receiver, or enter RECEIVE. -/
theorem activeRule_receiverOk (hb : b.ReceiverOk) (hv : ParamsValid b.params) (ht : b.seq.terminal = false)
    (h : activeRule e b = .next t) : t.ReceiverOk := by
  obtain ⟨hseq, rfl⟩ | ⟨hseq, rfl⟩ | ⟨hseq, rfl⟩ | ⟨hseq, h⟩ | ⟨hc, h⟩ | ⟨hseq, rfl⟩ | ⟨hseq, rfl⟩ | ⟨hseq, h⟩ :=
    activeRule_next ht h
  · exact .of_seq (by simp [bootStart]) (by simp [bootStart]) (by simp [bootStart])
  · obtain ⟨-, h⟩ | ⟨-, -, h⟩ | ⟨-, -, h⟩ := bootPoll_cases e b <;> rw [h]
    · exact .of_seq (by simp) (by simp) (by simp)
    · exact .of_entry rfl rfl
    · exact .of_seq (by simp [hseq]) (by simp [hseq]) (by simp [hseq])
  · exact rxTick_receiverOk hb hseq
  · obtain ⟨hbad, -⟩ | ⟨-, h' | ⟨f, -, -, h'⟩ | ⟨f, -, h'⟩ | ⟨f, -, h'⟩⟩ := decodeTick_cases b
    · simp [hb.received hseq] at hbad
    all_goals
      rw [h'] at h
      cases h
      exact .of_seq (by simp) (by simp) (by simp)
  · obtain (hseq | hseq) | hseq | hseq := fpeTick_seq hc h
    all_goals exact .of_seq (by simp [hseq]) (by simp [hseq]) (by simp [hseq])
  · obtain ⟨-, -, h⟩ | ⟨-, -, h⟩ | ⟨-, -, h⟩ | ⟨-, -, h⟩ | ⟨-, h⟩ := eeTick_cases e b <;> rw [h]
    all_goals exact .of_seq (by simp [hseq, eeAdvance]) (by simp [hseq, eeAdvance]) (by simp [hseq, eeAdvance])
  · exact .of_entry rfl rfl
  · rw [exitNp_eq hv] at h
    cases h
    exact .of_seq (by simp) (by simp) (by simp)

end

/-- Settles O56: RX keeps its ranges, and no other rule ends in DECODE, in FATAL or past the entry of RECEIVE. -/
theorem receiverStaysInRange : Obligations.ReceiverStaysInRange := by
  intro s t hs h
  refine step_cases h (fun seq hseq => ?_) (fun _ => receiverOk_beginTick hs) fun hv ht hr => ?_
  · obtain rfl | rfl := hseq <;> exact .of_seq (by simp [State.afterReset]) (by simp [State.afterReset])
      (by simp [State.afterReset])
  · exact activeRule_receiverOk (receiverOk_beginTick hs) (by simpa using hv) (by simpa using ht) hr

end Sys2Proof.Machine
end

section
/-! SUPPORT. The bounds of the two counted sequences (R30, R231, R283), the absence of any stop but a refused interrupt
(R250), and the invariants at reset. -/

namespace Sys2Proof.Machine

/-! ## The counted sequences -/

section
variable {s b t : State} {e : Inputs}

/-- Outside BOOT_POLL and EEPROM nothing is counted. -/
theorem State.CountersOk.of_seq (hp : s.seq ≠ .bootPoll) (he : s.seq ≠ .eeprom) : s.CountersOk :=
  ⟨fun h => absurd h hp, fun h => absurd h he, fun h => absurd h he⟩

theorem State.CountersOk.of_bootPoll (hs : s.seq = .bootPoll) (h : s.bsq.cnt ≤ s.params.bootThreshold) : s.CountersOk :=
  ⟨fun _ => h, fun h' => by simp [hs] at h', fun h' => by simp [hs] at h'⟩

theorem State.CountersOk.of_eeprom (hs : s.seq = .eeprom) (h : s.ee.i.toNat ≤ s.ee.len.toNat)
    (hi : s.ee.state ≠ .next → s.ee.i.toNat < s.ee.len.toNat) : s.CountersOk :=
  ⟨fun h' => by simp [hs] at h', fun _ => h, fun _ => hi⟩

theorem eeTick_countersOk (hb : b.CountersOk) (hseq : b.seq = .eeprom) : (eeTick e b).CountersOk := by
  have hle := hb.bytes hseq
  obtain ⟨-, -, h⟩ | ⟨-, hne, h⟩ | ⟨-, -, h⟩ | ⟨hst, -, h⟩ | ⟨hst, h⟩ := eeTick_cases e b <;> rw [h]
  · exact .of_seq (by simp) (by simp)
  · have hlt : b.ee.i.toNat < b.ee.len.toNat := lt_of_le_of_ne hle fun h => hne (BitVec.eq_of_toNat_eq h)
    exact .of_eeprom hseq hle fun _ => hlt
  · exact hb
  · have hlt := hb.issuing hseq (by simp [hst])
    exact .of_eeprom hseq hle fun _ => hlt
  · have hlt := hb.issuing hseq (by simp [hst])
    have hnext : (b.ee.i + 1).toNat = b.ee.i.toNat + 1 := by bv_omega
    exact .of_eeprom hseq (hnext ▸ hlt) fun h => absurd rfl h

theorem bootPoll_countersOk (hseq : b.seq = .bootPoll) : (bootPoll e b).CountersOk := by
  obtain ⟨-, h⟩ | ⟨-, -, h⟩ | ⟨-, hle, h⟩ := bootPoll_cases e b <;> rw [h]
  · exact .of_seq (by simp) (by simp)
  · exact .of_seq (by simp) (by simp)
  · exact .of_bootPoll hseq hle

theorem activeRule_countersOk (hb : b.CountersOk) (hv : ParamsValid b.params) (ht : b.seq.terminal = false)
    (h : activeRule e b = .next t) : t.CountersOk := by
  obtain ⟨-, rfl⟩ | ⟨hseq, rfl⟩ | ⟨hseq, rfl⟩ | ⟨-, h⟩ | ⟨hc, h⟩ | ⟨hseq, rfl⟩ | ⟨-, rfl⟩ | ⟨-, h⟩ := activeRule_next ht h
  · exact .of_bootPoll rfl (Nat.zero_le _)
  · exact bootPoll_countersOk hseq
  · obtain ⟨rx, tmr, frame, seq, h, hto⟩ := rxTick_frame e b
    rw [h]
    obtain rfl | ⟨rfl, -⟩ := hto
    · exact .of_seq (by simp [hseq]) (by simp [hseq])
    · exact .of_seq (by simp) (by simp)
  · obtain ⟨-, h'⟩ | ⟨-, h' | ⟨f, -, -, h'⟩ | ⟨f, -, h'⟩ | ⟨f, -, h'⟩⟩ := decodeTick_cases b <;> rw [h'] at h <;> cases h
    · exact .of_seq (by simp) (by simp)
    · exact .of_seq (by simp) (by simp)
    · exact .of_seq (by simp) (by simp)
    · exact .of_seq (by simp) (by simp)
    · exact .of_eeprom rfl (Nat.zero_le _) fun h => absurd rfl h
  · obtain (hseq | hseq) | hseq | hseq := fpeTick_seq hc h
    all_goals exact .of_seq (by simp [hseq]) (by simp [hseq])
  · exact eeTick_countersOk hb hseq
  · exact .of_seq (by simp [csqClear]) (by simp [csqClear])
  · rw [exitNp_eq hv] at h
    cases h
    exact .of_seq (by simp) (by simp)

theorem countersOk_beginTick (h : s.CountersOk) : (s.beginTick e).CountersOk where
  polls := by simpa using h.polls
  bytes := by simpa using h.bytes
  issuing := by simpa using h.issuing

end

/-- Settles O57: a poll and a byte count on below their bounds only. -/
theorem countersStayInRange : Obligations.CountersStayInRange := by
  intro s t hs h
  refine step_cases h (fun seq hseq => ?_) (fun _ => countersOk_beginTick hs) fun hv ht hr => ?_
  · obtain rfl | rfl := hseq <;> exact .of_seq (by simp [State.afterReset]) (by simp [State.afterReset])
  · exact activeRule_countersOk (countersOk_beginTick hs) (by simpa using hv) (by simpa using ht) hr

/-! ## No stop -/

section
variable {s b : State} {e : Inputs}

theorem AppPage.fits {p : Params} {pb : Word} (h : AppPage p pb) (hv : ParamsValid p) : pb.toNat + 64 ≤ p.flashSize := by
  obtain ⟨-, hlow⟩ := h
  obtain ⟨-, -, -, -, hhigh, -⟩ := hv
  omega

theorem flashCmd_answers {op : FlashOp} (h : op.pb.toNat + 64 ≤ s.params.flashSize) : ∃ t, s.flashCmd op = .next t :=
  ⟨_, if_pos h⟩

theorem decodeTick_answers (s : State) : ∃ t, decodeTick s = .next t := by
  obtain ⟨-, h⟩ | ⟨-, h | ⟨f, -, -, h⟩ | ⟨f, -, h⟩ | ⟨f, -, h⟩⟩ := decodeTick_cases s <;> exact ⟨_, h⟩

/-- FPE works on application pages only, whose bytes all exist (R60, R73, R168). -/
theorem fpeTick_answers (hv : ParamsValid b.params) (hp : b.Protected) : ∃ t, fpeTick e b = .next t := by
  have hfits : b.fpe.state ≠ .idle → b.fpe.pb.toNat + 64 ≤ b.params.flashSize := fun h => (hp.fpe h).fits hv
  cases hst : b.fpe.state <;> rw [fpeTick_state e b _ hst]
  case idle =>
    by_cases hseq : b.seq = .exitP
    · exact ⟨_, (if_pos hseq).trans (startMerge_eq (pointer_mergeRangeOk hv b.entryT))⟩
    · exact ⟨_, if_neg hseq⟩
  case assemble =>
    obtain ⟨a, ha⟩ := fpeAssemble_eq (hfits (by simp [hst]))
    exact ⟨_, ha⟩
  case intercept => exact ⟨_, interceptTick_eq b⟩
  case erase => exact flashCmd_answers (hfits (by simp [hst]))
  case write => exact flashCmd_answers (hfits (by simp [hst]))
  all_goals exact ⟨_, rfl⟩

/-- Under the invariants the active rule answers a next state. -/
theorem ruleTick_answers (hv : ParamsValid s.params) (hp : s.Protected) (hr : s.ReceiverOk) :
    ∃ t, ruleTick e s = .next t := by
  rw [ruleTick, activeRule_seq e (s.beginTick e) s.seq (beginTick_seq ..)]
  have hv' : ParamsValid (s.beginTick e).params := by simpa using hv
  have hp' := protected_beginTick (e := e) hp
  cases hseq : s.seq with
  | decode => exact decodeTick_answers _
  | program => exact fpeTick_answers hv' hp'
  | exitP => exact fpeTick_answers hv' hp'
  | exitNp => exact ⟨_, exitNp_eq hv'⟩
  | fatal => exact absurd hseq hr.notFatal
  | _ => exact ⟨_, rfl⟩

end

/-- Settles O59: the rule answers, and of the events only an interrupt taken is refused. -/
theorem onlyAnInterruptStopsTheBlock : Obligations.OnlyAnInterruptStopsTheBlock := by
  intro s hv hp hr
  have hrule := ruleTick_answers (e := s.now) hv hp hr
  cases he : s.now.event with
  | quiet => exact .inl (step_quiet hv he ▸ hrule)
  | reset => exact .inl ⟨_, step_reset hv he⟩
  | entry =>
    cases hc : s.seq.cpuElsewhere with
    | true => exact .inl ⟨_, step_entry hv he hc⟩
    | false => exact .inl (step_entry_running hv he hc ▸ hrule)
  | interrupt =>
    by_cases h : s.gie = false ∨ s.seq.terminal = true
    · exact .inl (step_interrupt_ignored hv he h ▸ hrule)
    · simp only [not_or, Bool.not_eq_false, Bool.not_eq_true] at h
      exact .inr ⟨rfl, h.1, step_interrupt_taken hv he h.1 h.2⟩

/-- Settles O60: right after reset everything is idle, and the arrays list nothing. -/
theorem invariantsHoldAtReset : Obligations.InvariantsHoldAtReset :=
  ⟨by decide, ⟨rfl, rfl, trivial⟩, ⟨fun h => absurd rfl h, fun _ h => by cases h⟩,
    .of_idle rfl rfl (by decide) (by decide), .of_seq (by decide) (by decide) (by decide), .of_seq (by decide) (by decide),
    by decide⟩

end Sys2Proof.Machine
end

section
/-! SUPPORT. The boot sequencer's polls (R283 to R285), any number of them, and the two ways out of BOOT_POLL (R284, R194). -/

namespace Sys2Proof.Machine

/-- A quiet BOOT_POLL tick is BSQ's rule on the begun tick (R283). -/
theorem step_bootPoll {s : State} (hv : ParamsValid s.params) (hq : s.now.event = .quiet) (hseq : s.seq = .bootPoll) :
    step s = .next (bootPoll s.now (s.beginTick s.now)) := by
  rw [step_active hv hq, activeRule_seq _ _ .bootPoll ((beginTick_seq ..).trans hseq)]

section
variable {e : Inputs} {b : State}

theorem bootPoll_changed (h : e.bootIn ≠ b.bsq.lref) : bootPoll e b = (b.emit .statusOff).goto .exitNp :=
  if_pos (bne_iff_ne.mpr h)

theorem bootPoll_held (h : e.bootIn = b.bsq.lref) (hc : b.bsq.cnt + 1 ≤ b.params.bootThreshold) :
    bootPoll e b = { b with bsq := { b.bsq with cnt := b.bsq.cnt + 1 } } :=
  (if_neg (by simp [h])).trans (if_neg (not_lt.mpr hc))

theorem bootPoll_fallThrough (h : e.bootIn = b.bsq.lref) (hc : b.params.bootThreshold < b.bsq.cnt + 1) :
    bootPoll e b = ({ b with bsq := { b.bsq with cnt := b.bsq.cnt + 1 } }.emit .statusOff).gotoReceive :=
  (if_neg (by simp [h])).trans (if_pos hc)

end

/-- Settles O26: the line is tested before the counter. -/
theorem bootPollTestsTheLineFirst : Obligations.BootPollTestsTheLineFirst := by
  intro s hv hq hseq
  have hbsq := beginTick_bsq s s.now
  have hev := beginTick_ev s s.now
  have hrx := beginTick_rx s s.now
  have hparams := beginTick_params s s.now
  rw [step_bootPoll hv hq hseq]
  generalize s.beginTick s.now = b at *
  rw [← hbsq, ← hev, ← hrx, ← hparams]
  exact ⟨fun h => congrArg _ (bootPoll_changed h), fun h hc => congrArg _ (bootPoll_held h hc),
    fun h hc => congrArg _ (bootPoll_fallThrough h hc)⟩

/-! ## Any number of polls -/

theorem Reaches.of_step {n : Nat} {P Q : State → Prop} {s : State} (h : ∃ t, Machine.step s = .next t ∧ Q t)
    (hnext : ∀ t, Q t → Reaches n P t) : Reaches (n + 1) P s := by
  obtain ⟨t, hstep, ht⟩ := h
  exact .step hstep (hnext t ht)

/-- BSQ polls: since s₀, BOOT_START at reference level l, it has counted c held polls, and es is to come. -/
structure Polling (s₀ : State) (l : Bool) (c : Nat) (es : List Inputs) (s : State) : Prop where
  seq : s.seq = .bootPoll
  bsq : s.bsq = { lref := l, cnt := c }
  ev : s.ev = s₀.ev ++ [.statusOn]
  inputs : s.inputs = es
  entryT : s.entryT = s₀.entryT
  params : s.params = s₀.params
  arrays : SameArrays s₀ s

section
variable {s₀ s : State} {l : Bool} {c : Nat} {e : Inputs} {es polls : List Inputs}

/-- BOOT_START begins the polls (R282). -/
theorem bootStart_polling (hv : ParamsValid s.params) (hseq : s.seq = .bootStart) (hop : s.flashOp = none)
    (heop : s.eepromOp = none) (hin : s.inputs = e :: es) (hq : e.event = .quiet) :
    ∃ t, step s = .next t ∧ Polling s e.bootIn 0 es t := by
  have hnow := now_cons hin
  refine ⟨_, step_bootStart hv (hnow ▸ hq) hseq, ?_⟩
  rw [hnow]
  exact
    { seq := rfl
      bsq := rfl
      ev := by simp [bootStart]
      inputs := by simp [bootStart, hin]
      entryT := by simp [bootStart]
      params := by simp [bootStart]
      arrays := (sameArrays_beginTick hop heop).trans ⟨fun _ => rfl, fun _ => rfl, rfl, rfl⟩ }

/-- A poll's tick begins with nothing in progress. -/
theorem Polling.beginTick (h : Polling s₀ l c (e :: es) s) (hop : s₀.flashOp = none) (heop : s₀.eepromOp = none) :
    Polling s₀ l c es (s.beginTick e) where
  seq := by simpa using h.seq
  bsq := by simpa using h.bsq
  ev := by simpa using h.ev
  inputs := by simp [h.inputs]
  entryT := by simpa using h.entryT
  params := by simpa using h.params
  arrays := h.arrays.trans (sameArrays_beginTick (h.arrays.flashOp.trans hop) (h.arrays.eepromOp.trans heop))

/-- The tick of a poll. -/
theorem Polling.step_eq (h : Polling s₀ l c (e :: es) s) (hv : ParamsValid s₀.params) (hq : e.event = .quiet) :
    step s = .next (bootPoll e (s.beginTick e)) := by
  have hnow := now_cons h.inputs
  rw [step_bootPoll (h.params ▸ hv) (hnow ▸ hq) h.seq, hnow]

/-- A held poll up to the threshold is counted (R283). -/
theorem Polling.counted (h : Polling s₀ l c (e :: es) s) (hv : ParamsValid s₀.params) (hop : s₀.flashOp = none)
    (heop : s₀.eepromOp = none) (hq : e.event = .quiet) (hl : e.bootIn = l) (hc : c + 1 ≤ s₀.params.bootThreshold) :
    ∃ t, step s = .next t ∧ Polling s₀ l (c + 1) es t := by
  have hb := h.beginTick hop heop
  refine ⟨_, h.step_eq hv hq, ?_⟩
  rw [bootPoll_held (by rw [hb.bsq, hl]) (by rwa [hb.bsq, hb.params])]
  exact { hb with bsq := by rw [hb.bsq], arrays := hb.arrays.trans ⟨fun _ => rfl, fun _ => rfl, rfl, rfl⟩ }

/-- Any number of held polls up to the threshold (R283). -/
theorem Polling.held (hv : ParamsValid s₀.params) (hop : s₀.flashOp = none) (heop : s₀.eepromOp = none) :
    ∀ {c : Nat} {s : State}, Polling s₀ l c (polls ++ es) s → AllQuiet polls → BootHeld l polls →
      c + polls.length ≤ s₀.params.bootThreshold → Reaches polls.length (Polling s₀ l (c + polls.length) es) s := by
  induction polls with
  | nil => exact fun h _ _ _ => .zero h
  | cons e polls ih =>
    intro c s h hq hl hc
    obtain ⟨hqe, hq⟩ := List.forall_mem_cons.mp hq
    obtain ⟨hle, hl⟩ := List.forall_mem_cons.mp hl
    rw [List.length_cons, Nat.add_comm polls.length, ← Nat.add_assoc] at hc ⊢
    rw [Nat.add_comm 1]
    exact .of_step (h.counted hv hop heop hqe hle (by omega)) fun t ht => ih ht hq hl hc

/-- BSQ has left its polls for q with STATUS_OFF, and es is to come. -/
structure LeftPolling (s₀ : State) (q : Seq) (es : List Inputs) (s : State) : Prop where
  seq : s.seq = q
  ev : s.ev = s₀.ev ++ [.statusOn, .statusOff]
  inputs : s.inputs = es
  entryT : s.entryT = s₀.entryT
  params : s.params = s₀.params
  arrays : SameArrays s₀ s

/-- A held poll past the threshold falls through to RECEIVE (R284). -/
theorem Polling.fallThrough (h : Polling s₀ l c (e :: es) s) (hv : ParamsValid s₀.params) (hop : s₀.flashOp = none)
    (heop : s₀.eepromOp = none) (hq : e.event = .quiet) (hl : e.bootIn = l) (hc : s₀.params.bootThreshold < c + 1) :
    ∃ t, step s = .next t ∧ LeftPolling s₀ .receive es t ∧ t.rx.entry = true ∧ t.bsq.cnt = c + 1 := by
  have hb := h.beginTick hop heop
  refine ⟨_, h.step_eq hv hq, ?_⟩
  rw [bootPoll_fallThrough (by rw [hb.bsq, hl]) (by rwa [hb.bsq, hb.params])]
  refine ⟨⟨rfl, ?_, hb.inputs, hb.entryT, hb.params, hb.arrays.trans ⟨fun _ => rfl, fun _ => rfl, rfl, rfl⟩⟩, rfl,
    congrArg (Bsq.cnt · + 1) hb.bsq⟩
  exact (congrArg (· ++ [.statusOff]) hb.ev).trans (List.append_assoc ..)

/-- A changed line leaves for EXIT_NP, whatever the counter (R283, R285). -/
theorem Polling.changed (h : Polling s₀ l c (e :: es) s) (hv : ParamsValid s₀.params) (hop : s₀.flashOp = none)
    (heop : s₀.eepromOp = none) (hq : e.event = .quiet) (hl : e.bootIn ≠ l) :
    ∃ t, step s = .next t ∧ LeftPolling s₀ .exitNp es t := by
  have hb := h.beginTick hop heop
  refine ⟨_, h.step_eq hv hq, ?_⟩
  rw [bootPoll_changed (by rwa [hb.bsq])]
  refine ⟨rfl, ?_, hb.inputs, hb.entryT, hb.params, hb.arrays.trans ⟨fun _ => rfl, fun _ => rfl, rfl, rfl⟩⟩
  exact (congrArg (· ++ [.statusOff]) hb.ev).trans (List.append_assoc ..)

/-- The persisted pointer is the same where FLASH is (R193). -/
theorem SameArrays.entryP (h : SameArrays s₀ s) (hp : s.params = s₀.params) : s.entryP = s₀.entryP := by
  rw [State.entryP, State.entryP, hp, h.flash, h.flash]

end

/-- Settles O27: BOOT_START, BOOT_THRESHOLD polls that are counted, and the one that falls through. -/
theorem heldLineFallsThrough : Obligations.HeldLineFallsThrough := by
  intro s b0 polls rest hv hseq hop heop hin hlen hq hl
  obtain ⟨init, last, rfl⟩ : ∃ init last, polls = init ++ [last] :=
    ⟨_, _, (List.dropLast_append_getLast (List.ne_nil_of_length_pos (by omega))).symm⟩
  obtain ⟨hq0, hq⟩ := List.forall_mem_cons.mp hq
  obtain ⟨hqi, hql⟩ := List.forall_mem_append.mp hq
  obtain ⟨hli, hll⟩ := List.forall_mem_append.mp hl
  have hinit : init.length = s.params.bootThreshold := by simpa using hlen
  have hstart := bootStart_polling (es := init ++ last :: rest) hv hseq hop heop (by simpa using hin) hq0
  obtain ⟨t, hrun, ht, hentry, hcnt⟩ := Reaches.of_step hstart fun u hu =>
    (hu.held hv hop heop hqi hli (by omega)).trans (n := 1) fun v hv' =>
      .of_step (hv'.fallThrough hv hop heop (hql last List.mem_cons_self) (hll last List.mem_cons_self) (by omega))
        fun _ => .zero (P := fun t => LeftPolling s .receive rest t ∧ t.rx.entry = true ∧ t.bsq.cnt = 0 + init.length + 1)
  exact ⟨t, hinit ▸ hrun, ht.seq, hentry, ht.ev, by rw [hcnt]; omega, ht.entryT, ht.inputs, ht.arrays⟩

/-- Settles O28: BOOT_START, the held polls, the changed one, and EXIT_NP. -/
theorem bootLineChangeHandsOff : Obligations.BootLineChangeHandsOff := by
  intro s b0 polls ch ex rest hv hseq hop heop hin hlen hq hl hch
  obtain ⟨hq0, hq⟩ := List.forall_mem_cons.mp hq
  obtain ⟨hqp, hqe⟩ := List.forall_mem_append.mp hq
  have hstart := bootStart_polling (es := polls ++ ch :: ex :: rest) hv hseq hop heop (by simpa using hin) hq0
  obtain ⟨u, hrun, hu⟩ := Reaches.of_step hstart fun u hu =>
    (hu.held hv hop heop hqp hl (by omega)).trans (n := 1) fun v hv' =>
      .of_step (hv'.changed hv hop heop (hqe ch (by simp)) hch) fun _ => .zero
  have huop := hu.arrays.flashOp.trans hop
  obtain ⟨a, hstep⟩ := exitWithoutPersistHandsOff u (hu.params ▸ hv) (now_cons hu.inputs ▸ hqe ex (by simp)) hu.seq huop
  have hentryP : u.entryP = s.entryP := hu.arrays.entryP hu.params
  refine ⟨_, (run_add hrun 1).trans (run_succ hstep 0), rfl, rfl, hentryP, hentryP, (beginTick_ev ..).trans hu.ev,
    hu.arrays.trans ?_⟩
  exact (sameArrays_beginTick huop (hu.arrays.eepromOp.trans heop)).trans ⟨fun _ => rfl, fun _ => rfl, rfl, rfl⟩

end Sys2Proof.Machine
end

section
/-! SUPPORT. FPE's ticks as next states of the begun tick (R162 to R170), the waits on a busy flag (R172, R255), and the
ranges MERGE takes (R168). -/

namespace Sys2Proof.Machine

/-- ENTER as an update (R162). -/
theorem fpeEnter_eq (b : State) :
    fpeEnter b = { b with
      gieSave := b.gie, gie := false,
      fpe := { b.fpe with state := if b.fpe.mode = .merge then .assemble else .intercept } } := by
  unfold fpeEnter
  cases b.fpe.mode <;> rfl

/-- Settles O38: ENTER and DONE on the begun tick. -/
theorem pageOperationMasksInterrupts : Obligations.PageOperationMasksInterrupts := by
  intro s hv hq
  have hfpe := beginTick_fpe s s.now
  have hgie := beginTick_gie s s.now
  have hsave := beginTick_gieSave s s.now
  have hev := beginTick_ev s s.now
  have hentry := beginTick_entryT s s.now
  have hseq := beginTick_seq s s.now
  have hstep := step_fpe_now hv hq
  generalize s.beginTick s.now = b at *
  rw [← hfpe, ← hgie, ← hsave, ← hev, ← hentry]
  refine ⟨fun hc hst => ?_, fun hp hst => ?_, fun hp hst => ?_⟩
  · rw [hstep hc, fpeTick_state _ b _ hst, ← fpeEnter_eq]
  · rw [hstep (.inl hp), fpeTick_state _ b _ hst]
    exact congrArg _ (fpeDone_program (hseq.trans hp))
  · rw [hstep (.inr hp), fpeTick_state _ b _ hst]
    exact congrArg _ (fpeDone_exitP (hseq.trans hp))

/-! ## ASSEMBLE -/

/-- ASSEMBLE of a page that exists, with the address it leaves on fl_rdaddr (R169). -/
theorem fpeAssemble_cases {b : State} (h : b.fpe.pb.toNat + 64 ≤ b.params.flashSize) :
    ∃ a, fpeAssemble b = .next ((assembled b).driveRdaddr a) ∧
      (a = b.ports.flRdaddr ∨ ∃ j, j < 64 ∧ mergeCovers b j = false ∧ a = fpeAddr b j) := by
  rw [fpeAssemble, if_pos h]
  obtain hd | ⟨j, hj, hcov, hd⟩ := driveReadBack_cases b
  · exact ⟨b.ports.flRdaddr, congrArg _ (by rw [hd]; rfl), .inl rfl⟩
  · exact ⟨fpeAddr b j, congrArg _ (by rw [hd]; rfl), .inr ⟨j, hj, hcov, rfl⟩⟩

theorem fpeAddr_toNat {b : State} {j : Nat} (h : b.fpe.pb.toNat + 64 ≤ 65536) (hj : j < 64) :
    (fpeAddr b j).toNat = b.fpe.pb.toNat + j := by
  rw [fpeAddr, BitVec.toNat_add, BitVec.toNat_ofNat]
  omega

/-- Settles O39: the assembled buffer, and the address of a byte that was read. -/
theorem assembleReadsThePageBack : Obligations.AssembleReadsThePageBack := by
  intro s hv hq hc hst hp hop
  have hfits := (hp.fpe (by simp [hst])).fits hv
  have hfits' : s.fpe.pb.toNat + 64 ≤ 65536 := hfits.trans (by obtain ⟨-, h, -⟩ := hv; exact h)
  have hflash := fun a => flashByte_beginTick_idle (e := s.now) hop a
  have hfpe := beginTick_fpe s s.now
  have hparams := beginTick_params s s.now
  have hstep := step_fpe_now hv hq hc
  have hrd : (s.beginTick s.now).ports.flRdaddr = s.ports.flRdaddr := by rw [beginTick_ports]
  have hgie : SameGie s (s.beginTick s.now) := sameGie_beginTick
  have hentry := beginTick_entryT s s.now
  have hseq := beginTick_seq s s.now
  generalize s.beginTick s.now = b at *
  rw [← hfpe] at hst hfits hfits'
  obtain ⟨a, ha, hwhere⟩ := fpeAssemble_cases (b := b) (by rwa [hparams])
  rw [fpeTick_state _ b _ hst, ha] at hstep
  rw [← hfpe]
  refine ⟨_, hstep, rfl, rfl, hseq, ⟨hgie.gie, hgie.gieSave⟩, hentry, hflash, rfl, ?_, fun j hj => ?_⟩
  · obtain rfl | ⟨j, hj, hcov, rfl⟩ := hwhere
    · exact .inl hrd
    · exact .inr ⟨j, hj, fpeAddr_toNat hfits' hj, of_decide_eq_false hcov⟩
  · rw [← hflash]
    exact (Vector.getElem_ofFn hj).trans (assembledByte_eq hfits' ⟨j, hj⟩)

/-! ## The commands and the waits -/

theorem fpeGoto_self {b : State} {q : FpeState} (h : b.fpe.state = q) : b.fpeGoto q = b := by
  subst h
  rfl

/-- A wait goes on while fl_busy reads 1 (R164, R165). -/
theorem fpeWait_eq {b : State} {q r : FpeState} (hst : b.fpe.state = q) (busy : Bool) :
    (if busy then b else b.fpeGoto r) = b.fpeGoto (if busy then q else r) := by
  cases busy
  · rfl
  · exact (fpeGoto_self hst).symm

/-- Settles O40: each command is accepted, since its page exists, and each wait asks its flag. -/
theorem commandsAreIssuedAndAwaited : Obligations.CommandsAreIssuedAndAwaited := by
  intro s hv hq hc hp
  have hfits : s.fpe.state ≠ .idle → s.fpe.pb.toNat + 64 ≤ s.params.flashSize := fun h => (hp.fpe h).fits hv
  have hfpe := beginTick_fpe s s.now
  have hparams := beginTick_params s s.now
  have hstep := step_fpe_now hv hq hc
  generalize s.beginTick s.now = b at *
  rw [← hfpe, ← hparams] at hfits
  rw [← hfpe]
  refine ⟨fun hst => ?_, fun hst => ?_, fun hst => ?_, fun hst => ?_⟩ <;> rw [hstep, fpeTick_state _ b _ hst]
  · exact if_pos (hfits (by simp [hst]))
  · exact if_pos (hfits (by simp [hst]))
  · exact congrArg _ (fpeWait_eq hst _)
  · exact congrArg _ (fpeWait_eq hst _)

/-- A quiet tick of the EEPROM sequence (R231). -/
theorem step_eeprom {s : State} (hv : ParamsValid s.params) (hq : s.now.event = .quiet) (hseq : s.seq = .eeprom) :
    step s = .next (eeTick s.now (s.beginTick s.now)) := by
  rw [step_active hv hq, activeRule_seq _ _ .eeprom ((beginTick_seq ..).trans hseq)]

/-- The block waits for a flag that reads 1 at the tick e: FPE for fl_busy, or the EEPROM sequence for ee_busy. -/
def State.Stalled (e : Inputs) (s : State) : Prop :=
  (s.FpeCalled ∧ s.fpe.state.AwaitsFlash ∧ e.flBusy = true) ∨ (s.seq = .eeprom ∧ s.ee.state = .wait ∧ e.eeBusy = true)

/-- At such a tick nothing but the tick happens (R172, R255). -/
theorem step_stalled {s : State} (hv : ParamsValid s.params) (hq : s.now.event = .quiet) (h : s.Stalled s.now) :
    step s = .next (s.beginTick s.now) := by
  obtain ⟨hc, hst, hbusy⟩ | ⟨hseq, hst, hbusy⟩ := h
  · rw [step_fpe_now hv hq hc, fpeTick_wait_busy (by simpa using hst) hbusy]
  · rw [step_eeprom hv hq hseq, eeTick, beginTick_ee, hst]
    exact congrArg _ (if_pos hbusy)

/-- What a stalled tick leaves as it is. -/
structure SameStall (s t : State) : Prop where
  params : t.params = s.params
  seq : t.seq = s.seq
  fpe : t.fpe = s.fpe
  ee : t.ee = s.ee
  gie : SameGie s t
  ev : t.ev = s.ev
  entryT : t.entryT = s.entryT
  hoValid : t.ports.hoValid = s.ports.hoValid

theorem sameStall_beginTick (s : State) (e : Inputs) : SameStall s (s.beginTick e) where
  params := beginTick_params ..
  seq := beginTick_seq ..
  fpe := beginTick_fpe ..
  ee := beginTick_ee ..
  gie := sameGie_beginTick
  ev := beginTick_ev ..
  entryT := beginTick_entryT ..
  hoValid := by simp

theorem SameStall.trans {s t u : State} (h : SameStall s t) (h' : SameStall t u) : SameStall s u where
  params := h'.params.trans h.params
  seq := h'.seq.trans h.seq
  fpe := h'.fpe.trans h.fpe
  ee := h'.ee.trans h.ee
  gie := ⟨h'.gie.gie.trans h.gie.gie, h'.gie.gieSave.trans h.gie.gieSave⟩
  ev := h'.ev.trans h.ev
  entryT := h'.entryT.trans h.entryT
  hoValid := h'.hoValid.trans h.hoValid

/-- Whether a tick is stalled depends on what stalled ticks leave as it is. -/
theorem SameStall.stalled {s t : State} {e : Inputs} (h : SameStall s t) (hs : s.Stalled e) : t.Stalled e := by
  rwa [State.Stalled, State.FpeCalled, h.seq, h.fpe, h.ee]

/-- A flag that stays at 1 holds the block for any number of ticks (R172, R255). -/
theorem stalled_reaches {rest : List Inputs} (es : List Inputs) : ∀ {s : State}, ParamsValid s.params →
    s.inputs = es ++ rest → AllQuiet es → (∀ e ∈ es, s.Stalled e) →
    Reaches es.length (fun t => SameStall s t ∧ t.inputs = rest) s := by
  induction es with
  | nil => exact fun {s} _ hin _ _ => .zero ⟨⟨rfl, rfl, rfl, rfl, ⟨rfl, rfl⟩, rfl, rfl, rfl⟩, hin⟩
  | cons e es ih =>
    intro s hv hin hq hs
    obtain ⟨hqe, hq⟩ := List.forall_mem_cons.mp hq
    obtain ⟨hse, hs⟩ := List.forall_mem_cons.mp hs
    have hnow : s.now = e := now_cons hin
    have hstep := step_stalled hv (hnow ▸ hqe) (hnow ▸ hse)
    rw [hnow] at hstep
    have hsame := sameStall_beginTick s e
    obtain ⟨t, hrun, ht, hrest⟩ := ih (s := s.beginTick e) (by simpa using hv) (by simp [hin]) hq
      fun e' he' => hsame.stalled (hs e' he')
    exact .step hstep ⟨t, hrun, hsame.trans ht, hrest⟩

/-- Settles O41: every tick is stalled, on one flag or on the other. -/
theorem busyFlagHoldsTheBlock : Obligations.BusyFlagHoldsTheBlock := by
  intro s es rest hv hin hq h
  have hs : ∀ e ∈ es, s.Stalled e := by
    obtain ⟨hc, hst, hbusy⟩ | ⟨hseq, hst, hbusy⟩ := h
    · exact fun e he => .inl ⟨hc, hst, hbusy e he⟩
    · exact fun e he => .inr ⟨hseq, hst, hbusy e he⟩
  obtain ⟨t, hrun, ht, hrest⟩ := stalled_reaches es hv hin hq hs
  exact ⟨t, hrun, ht.seq, ht.fpe, ht.ee, ht.gie, ht.ev, ht.entryT, ht.hoValid, hrest⟩

/-! ## The ranges of MERGE -/

theorem startMerge_refused {a : Word} {data : List Byte} {s : State} (h : ¬MergeRangeOk s.params a data.length) :
    startMerge a data s = .refused .mergeRange := if_neg h

theorem pageBase_toNat (a : Word) : (pageBase a).toNat = a.toNat / 64 * 64 := by
  rw [pageBase, BitVec.toNat_sub, BitVec.toNat_umod, show (64#16).toNat = 64 from rfl]
  omega

theorem overwrite_getElem (b : Page) (ds : List Byte) {j : Nat} (h : j < 64) :
    (overwrite b ds)[j] = if h' : j < ds.length then ds[j] else b[j] := by
  rw [overwrite, Vector.getElem_ofFn]
  split
  next h' => exact List.getD_eq_getElem _ _ h'
  next h' => exact List.getD_eq_default _ _ (not_lt.mp h')

/-- Settles O42: the range check is the conjunction of the three, and the start writes the merge registers. -/
theorem mergeRefusesACrossingRange : Obligations.MergeRefusesACrossingRange := by
  intro s a data
  refine ⟨fun h => startMerge_refused fun hok => ?_, fun h => startMerge_refused fun hok => ?_,
    fun h => startMerge_refused fun hok => ?_, fun hpage hlen hsize => ⟨_, startMerge_eq ⟨hlen, hpage, hsize⟩, rfl,
      pageBase_toNat a, rfl, ?_, fun j h => overwrite_getElem _ _ h, rfl, rfl, rfl, rfl, rfl,
      sameButSequencing_update s s.seq _ s.ee s.entryT⟩⟩
  · obtain ⟨-, hpage, -⟩ := hok
    exact hpage.elim h.1 h.2
  · obtain ⟨hlen, -⟩ := hok
    omega
  · obtain ⟨-, -, hsize⟩ := hok
    omega
  · exact (BitVec.toNat_ofNat ..).trans (Nat.mod_eq_of_lt (by omega))

end Sys2Proof.Machine
end

section
/-! SUPPORT. The EEPROM byte sequence: its ticks (R231, R232), the bytes it has written and the one still under a write (R67,
R68), and a WriteEEPROM from DECODE to HALTED (R227, R194). -/

namespace Sys2Proof.Machine

/-! ## One tick in each state -/

section
variable {e : Inputs} {b : State}

theorem eeTick_end (hst : b.ee.state = .next) (h : b.ee.i = b.ee.len) : eeTick e b = b.goto .exitNp := by
  rw [eeTick, hst]
  exact if_pos h

theorem eeTick_mask (hst : b.ee.state = .next) (h : b.ee.i ≠ b.ee.len) :
    eeTick e b = { b with gieSave := b.gie, gie := false, ee := { b.ee with state := .wait } } := by
  rw [eeTick, hst]
  exact if_neg h

theorem eeTick_wait (hst : b.ee.state = .wait) :
    eeTick e b = { b with ee := { b.ee with state := if e.eeBusy then .wait else .issue } } := by
  have hself : b = { b with ee := { b.ee with state := .wait } } := by rw [← hst]
  rw [eeTick, hst]
  cases e.eeBusy with
  | false => rfl
  | true => exact hself

theorem eeTick_issue (hst : b.ee.state = .issue) :
    eeTick e b = eeAdvance (b.eepromWrite (eeAddress b) (eeData e b)) := by
  rw [eeTick, hst]

/-- The byte address is taken modulo 65536 (R231, R232). -/
theorem eeAddress_eq (b : State) : eeAddress b = BitVec.ofNat 16 ((b.ee.base.toNat + b.ee.i.toNat) % 65536) := by
  apply BitVec.eq_of_toNat_eq
  rw [eeAddress, BitVec.toNat_add, BitVec.toNat_ofNat, Nat.mod_mod]

theorem eeData_payload (h : b.ee.i.toNat < 64) : eeData e b = b.frame[7 + b.ee.i.toNat] := dif_pos h

theorem eeData_draw (h : 64 ≤ b.ee.i.toNat) : eeData e b = e.drawByte := dif_neg (not_lt.mpr h)

end

/-- Settles O46: each state's rule on the begun tick. -/
theorem eepromSequenceTicks : Obligations.EepromSequenceTicks := by
  intro s hv hq hseq
  have hee := beginTick_ee s s.now
  have hgie := beginTick_gie s s.now
  have hsave := beginTick_gieSave s s.now
  have hframe := beginTick_frame s s.now
  have hseq' := (beginTick_seq s s.now).trans hseq
  have hentry := beginTick_entryT s s.now
  have hfpe := beginTick_fpe s s.now
  have hev := beginTick_ev s s.now
  have hrx : SameReceiver { s with tmr := s.tmr + 1 } (s.beginTick s.now) :=
    ⟨beginTick_rx .., beginTick_tmr .., beginTick_frame ..⟩
  rw [step_eeprom hv hq hseq]
  generalize s.beginTick s.now = b at *
  refine ⟨fun hst h => ?_, fun hst h => ?_, fun hst => ?_, fun hst => ⟨_, rfl, ?_⟩⟩ <;> rw [← hee] at hst
  · rw [eeTick_end hst (by rwa [hee]), State.goto]
  · rw [eeTick_mask hst (by rwa [hee]), hgie, hee]
  · rw [eeTick_wait hst, hee]
  · have haddr := eeAddress_eq b
    have hpayload := eeData_payload (e := s.now) (b := b)
    have hdraw := eeData_draw (e := s.now) (b := b)
    simp only [hee, hframe] at hpayload
    rw [hee] at haddr hdraw
    rw [eeTick_issue hst, ← haddr]
    exact ⟨rfl, rfl, rfl, hpayload, hdraw, hsave, by simp [eeAdvance, hee], hseq', hentry, hfpe, hev,
      ⟨hrx.rx, hrx.tmr, hrx.frame⟩⟩

/-! ## The bytes written so far -/

/-- The EEPROM as it will be once the write in progress has completed (R68). -/
def State.eepromSettled (s : State) : Memory :=
  match s.eepromOp with
  | some op => Memory.write eepromBlank s.eeprom (eepromClamp op.addr) op.data
  | none => s.eeprom

section
variable {s : State} {e : Inputs}

theorem eepromSettled_idle (h : s.eepromOp = none) : s.eepromSettled = s.eeprom := by simp [State.eepromSettled, h]

/-- Whether a write completes at a tick or not, what will be in the end is the same. -/
theorem eepromSettled_beginTick : (s.beginTick e).eepromSettled = s.eepromSettled := by
  rw [State.eepromSettled, beginTick_eepromOp, beginTick_eeprom]
  cases hop : s.eepromOp with
  | none => simp only [eepromCollaborator_idle hop, hop, eepromSettled_idle hop]
  | some op =>
    cases he : e.eeBusy with
    | true =>
      rw [eepromCollaborator_busy he]
      rfl
    | false => simp only [eepromCollaborator_free hop he, State.eepromSettled, hop]

/-- At a tick at which ee_busy reads 0 nothing stays in progress (R68). -/
theorem eepromOp_beginTick_free (he : e.eeBusy = false) : (s.beginTick e).eepromOp = none := by
  rw [beginTick_eepromOp]
  cases hop : s.eepromOp with
  | none => rw [eepromCollaborator_idle hop, hop]
  | some op => rw [eepromCollaborator_free hop he]

theorem eeprom_wf_beginTick (h : Memory.wf eepromBlank 512 s.eeprom = true) :
    Memory.wf eepromBlank 512 (s.beginTick e).eeprom = true := by
  rw [beginTick_eeprom]
  exact eepromCollaborator_wf h

end

/-! ## A WriteEEPROM byte by byte -/

/-- Write number i of a WriteEEPROM: the array address and the value (R231, R232). -/
def sequenceWrite (f : Fields) (blocks : List (List Inputs)) (i : Nat) : Nat × Byte :=
  (eepromClamp (pageOperand f + BitVec.ofNat 16 i), sequenceByte f blocks i)

theorem sequenceWrites_eq (f : Fields) (blocks : List (List Inputs)) :
    sequenceWrites f blocks = (List.range f.length.toNat).map (sequenceWrite f blocks) := rfl

theorem afterWrites_append (ws : List (Nat × Byte)) (w : Nat × Byte) (a : Nat) (v : Byte) :
    afterWrites (ws ++ [w]) a v = if w.1 = a then w.2 else afterWrites ws a v := by
  simp [afterWrites, List.foldl_append]

/-- A WriteEEPROM f that stood at s₀ has come to SEQ = v and EE_STATE = q with k bytes issued, and es is to come. The bytes
issued are in the settled EEPROM, and FLASH and what the handoff needs are as they were. -/
structure Writing (f : Fields) (blocks : List (List Inputs)) (s₀ : State) (v : Seq) (q : EeState) (k : Nat)
    (es : List Inputs) (s : State) : Prop where
  seq : s.seq = v
  ee : s.ee = { state := q, base := pageOperand f, len := f.length, i := BitVec.ofNat 16 k }
  inputs : s.inputs = es
  params : s.params = s₀.params
  frame : s.frame = s₀.frame
  ev : s.ev = s₀.ev
  gie : (if q = .next then s.gie else s.gieSave) = s₀.gie
  flash : s.flash = s₀.flash
  flashOp : s.flashOp = none
  wf : Memory.wf eepromBlank 512 s.eeprom = true
  idle : q = .issue → s.eepromOp = none
  written : ∀ a, Memory.read eepromBlank s.eepromSettled a =
    afterWrites ((List.range k).map (sequenceWrite f blocks)) a (s₀.eepromByte a)

/-- A WriteEEPROM that has handed off to the persisted pointer as it stood at s₀. -/
structure HandedOff (f : Fields) (blocks : List (List Inputs)) (s₀ : State) (k : Nat) (es : List Inputs) (s : State) : Prop
    extends Writing f blocks s₀ .halted .next k es s where
  hoValid : s.ports.hoValid = true
  hoTarget : s.ports.hoTarget = s₀.entryP
  entryT : s.entryT = s₀.entryP

namespace Writing
variable {f : Fields} {blocks : List (List Inputs)} {s₀ s : State} {v : Seq} {q : EeState} {k : Nat} {e : Inputs}
  {es : List Inputs}

/-- A tick begins. -/
theorem beginTick (h : Writing f blocks s₀ v q k (e :: es) s) : Writing f blocks s₀ v q k es (s.beginTick e) where
  seq := by simpa using h.seq
  ee := by simpa using h.ee
  inputs := by simp [h.inputs]
  params := by simpa using h.params
  frame := by simpa using h.frame
  ev := by simpa using h.ev
  gie := by simpa using h.gie
  flash := by simpa [flashController_idle h.flashOp] using h.flash
  flashOp := by simpa [flashController_idle h.flashOp] using h.flashOp
  wf := eeprom_wf_beginTick h.wf
  idle hq := by
    have hidle := h.idle hq
    simpa [eepromCollaborator_idle hidle] using hidle
  written := by simpa only [eepromSettled_beginTick] using h.written

/-- A quiet tick of the sequence. -/
theorem step_eq (h : Writing f blocks s₀ .eeprom q k (e :: es) s) (hv : ParamsValid s₀.params) (hq : e.event = .quiet) :
    step s = .next (eeTick e (s.beginTick e)) := by
  have hnow := now_cons h.inputs
  rw [step_eeprom (h.params ▸ hv) (hnow ▸ hq) h.seq, hnow]

/-- NEXT with a byte to go masks interrupts (R231). -/
theorem next (h : Writing f blocks s₀ .eeprom .next k (e :: es) s) (hv : ParamsValid s₀.params) (hq : e.event = .quiet)
    (hk : k < f.length.toNat) : ∃ t, step s = .next t ∧ Writing f blocks s₀ .eeprom .wait k es t := by
  have hb := h.beginTick
  have hne : (s.beginTick e).ee.i ≠ (s.beginTick e).ee.len := by
    rw [hb.ee]
    dsimp only
    bv_omega
  refine ⟨_, h.step_eq hv hq, ?_⟩
  rw [eeTick_mask (congrArg Ee.state hb.ee) hne]
  exact { hb with ee := by rw [hb.ee], idle := fun h => by contradiction }

/-- NEXT with no byte to go leaves for EXIT_NP (R231). -/
theorem finish (h : Writing f blocks s₀ .eeprom .next k (e :: es) s) (hv : ParamsValid s₀.params) (hq : e.event = .quiet)
    (hk : k = f.length.toNat) : ∃ t, step s = .next t ∧ Writing f blocks s₀ .exitNp .next k es t := by
  have hb := h.beginTick
  have heq : (s.beginTick e).ee.i = (s.beginTick e).ee.len := by
    rw [hb.ee, hk]
    exact BitVec.ofNat_toNat ..
  refine ⟨_, h.step_eq hv hq, ?_⟩
  rw [eeTick_end (congrArg Ee.state hb.ee) heq]
  exact { hb with seq := rfl }

/-- A WAIT tick at which ee_busy reads 1 (R231). -/
theorem wait_busy (h : Writing f blocks s₀ .eeprom .wait k (e :: es) s) (hv : ParamsValid s₀.params)
    (hq : e.event = .quiet) (he : e.eeBusy = true) : ∃ t, step s = .next t ∧ Writing f blocks s₀ .eeprom .wait k es t := by
  have hb := h.beginTick
  refine ⟨_, h.step_eq hv hq, ?_⟩
  rw [eeTick_wait (congrArg Ee.state hb.ee), he]
  exact { hb with ee := by rw [hb.ee]; rfl }

/-- The WAIT tick at which ee_busy reads 0, and the write in progress completes (R68, R231). -/
theorem wait_free (h : Writing f blocks s₀ .eeprom .wait k (e :: es) s) (hv : ParamsValid s₀.params)
    (hq : e.event = .quiet) (he : e.eeBusy = false) :
    ∃ t, step s = .next t ∧ Writing f blocks s₀ .eeprom .issue k es t := by
  have hb := h.beginTick
  refine ⟨_, h.step_eq hv hq, ?_⟩
  rw [eeTick_wait (congrArg Ee.state hb.ee), he]
  exact { hb with ee := by rw [hb.ee]; rfl, idle := fun _ => eepromOp_beginTick_free he }

/-- The byte that ISSUE puts on the port (R231). -/
theorem eeData_eq (h : Writing f blocks s₀ v q k es s) (hf : f = decodeFields s₀.frame) (hk : k < 65536)
    (hlast : ((blocks.getD k []).getLastD Inputs.quiet) = e) : eeData e s = sequenceByte f blocks k := by
  have hi : s.ee.i.toNat = k := by
    rw [h.ee]
    exact (BitVec.toNat_ofNat ..).trans (Nat.mod_eq_of_lt hk)
  simp only [eeData, sequenceByte, hi, hlast, h.frame, hf]
  exact dite_congr rfl (fun _ => by simp [decodeFields]) fun _ => rfl

/-- ISSUE starts the write of byte k (R231). -/
theorem issue (h : Writing f blocks s₀ .eeprom .issue k (e :: es) s) (hv : ParamsValid s₀.params) (hq : e.event = .quiet)
    (hf : f = decodeFields s₀.frame) (hk : k < 65536) (hlast : ((blocks.getD k []).getLastD Inputs.quiet) = e) :
    ∃ t, step s = .next t ∧ Writing f blocks s₀ .eeprom .next (k + 1) es t := by
  have hb := h.beginTick
  have hidle := hb.idle rfl
  have haddr : eeAddress (s.beginTick e) = pageOperand f + BitVec.ofNat 16 k := by rw [eeAddress, hb.ee]
  refine ⟨_, h.step_eq hv hq, ?_⟩
  rw [eeTick_issue (congrArg Ee.state hb.ee), haddr, hb.eeData_eq hf hk hlast]
  exact
    { hb with
      ee := by
        refine (congrArg (fun r : Ee => { r with state := .next, i := r.i + 1 }) hb.ee).trans ?_
        rw [BitVec.ofNat_add]
        rfl
      gie := hb.gie
      idle := fun h => by contradiction
      written := fun a => by
        have hold := hb.written a
        rw [eepromSettled_idle hidle] at hold
        rw [List.range_succ, List.map_append, List.map_singleton, afterWrites_append, ← hold]
        refine (Memory.read_write hb.wf _ _ a).trans ?_
        simp only [sequenceWrite, eq_comm] }

/-- The WAIT ticks of one byte (R231). -/
theorem wait {busy : List Inputs} {free : Inputs} : ∀ {s : State},
    Writing f blocks s₀ .eeprom .wait k (busy ++ free :: es) s → ParamsValid s₀.params → AllQuiet (busy ++ [free]) →
    EepromBusy busy → free.eeBusy = false →
    Reaches (busy.length + 1) (Writing f blocks s₀ .eeprom .issue k es) s := by
  induction busy with
  | nil => exact fun h hv hq _ hfree => .of_step (h.wait_free hv (hq free (by simp)) hfree) fun _ => .zero
  | cons e busy ih =>
    intro s h hv hq hbusy hfree
    obtain ⟨hqe, hq⟩ := List.forall_mem_cons.mp hq
    obtain ⟨hbe, hbusy⟩ := List.forall_mem_cons.mp hbusy
    exact .of_step (h.wait_busy hv hqe hbe) fun t ht => ih ht hv hq hbusy hfree

/-- The ticks of one byte (R231). -/
theorem byte {block : List Inputs} (h : Writing f blocks s₀ .eeprom .next k (block ++ es) s) (hv : ParamsValid s₀.params)
    (hq : AllQuiet block) (hblock : ByteTicks block) (hf : f = decodeFields s₀.frame) (hk : k < f.length.toNat)
    (hget : blocks.getD k [] = block) :
    Reaches block.length (Writing f blocks s₀ .eeprom .next (k + 1) es) s := by
  obtain ⟨next, busy, free, issue, rfl, hbusy, hfree⟩ := hblock
  rw [show next :: busy ++ [free, issue] = next :: (busy ++ [free] ++ [issue]) by simp] at hq
  obtain ⟨hqn, hq⟩ := List.forall_mem_cons.mp hq
  obtain ⟨hqw, hqi⟩ := List.forall_mem_append.mp hq
  have hlast : (blocks.getD k []).getLastD Inputs.quiet = issue := by
    rw [hget, show next :: busy ++ [free, issue] = next :: busy ++ [free] ++ [issue] by simp]
    exact List.getLastD_concat ..
  rw [show (next :: busy ++ [free, issue]).length = busy.length + 1 + 1 + 1 by simp]
  refine .of_step (Writing.next (es := busy ++ free :: issue :: es) (by simpa using h) hv hqn hk) fun t ht => ?_
  refine (ht.wait hv hqw hbusy hfree).trans (n := 1) fun u hu => ?_
  exact .of_step (hu.issue hv (hqi issue List.mem_cons_self) hf (by omega) hlast) fun _ => .zero

/-- All the bytes from byte k on. -/
theorem bytes (hv : ParamsValid s₀.params) (hf : f = decodeFields s₀.frame) (hlen : blocks.length = f.length.toNat)
    (todo : List (List Inputs)) : ∀ {k : Nat} {s : State}, blocks.drop k = todo → k ≤ blocks.length →
    Writing f blocks s₀ .eeprom .next k (todo.flatten ++ es) s → (∀ b ∈ todo, ByteTicks b) → AllQuiet todo.flatten →
    Reaches todo.flatten.length (Writing f blocks s₀ .eeprom .next blocks.length es) s := by
  induction todo with
  | nil =>
    intro k s hdrop hk h _ _
    have hend : k = blocks.length := le_antisymm hk (List.drop_eq_nil_iff.mp hdrop)
    exact .zero (hend ▸ h)
  | cons block todo ih =>
    intro k s hdrop hk h hblocks hq
    obtain ⟨hblock, hblocks⟩ := List.forall_mem_cons.mp hblocks
    obtain ⟨hqb, hq⟩ := List.forall_mem_append.mp hq
    have hlt : k < blocks.length := by
      by_contra hge
      rw [List.drop_eq_nil_of_le (not_lt.mp hge)] at hdrop
      cases hdrop
    have hsplit := List.drop_eq_getElem_cons hlt
    rw [hdrop] at hsplit
    obtain ⟨hhead, htail⟩ := List.cons.inj hsplit
    have hget : blocks.getD k [] = block := by rw [List.getD_eq_getElem _ _ hlt, hhead]
    rw [List.flatten_cons, List.length_append]
    refine (Writing.byte (es := todo.flatten ++ es) (by simpa using h) hv hqb hblock hf (hlen ▸ hlt) hget).trans fun t ht => ?_
    exact ih htail.symm hlt ht hblocks hq

/-- The DECODE tick of a WriteEEPROM starts the sequence (R222, R227). -/
theorem start (hv : ParamsValid s₀.params) (hwf : Memory.wf eepromBlank 512 s₀.eeprom = true) (hop : s₀.flashOp = none)
    (heop : s₀.eepromOp = none) (hseq : s₀.seq = .decode) (hok : s₀.rx.ok = true)
    (hf : decodeFrame s₀.frame = .cmdWriteEeprom f) (hin : s₀.inputs = e :: es) (hq : e.event = .quiet) :
    ∃ t, step s₀ = .next t ∧ Writing f blocks s₀ .eeprom .next 0 es t := by
  have hnow := now_cons hin
  have hexec : exec (.cmdWriteEeprom f) (s₀.beginTick e) =
    .next { s₀.beginTick e with seq := .eeprom, ee := { state := .next, base := pageOperand f, len := f.length, i := 0 } } := rfl
  refine ⟨_, by rw [step_decode hv (hnow ▸ hq) hseq hok, hf, hnow, hexec], ?_⟩
  have hee : (s₀.beginTick e).eepromSettled = s₀.eeprom := eepromSettled_beginTick.trans (eepromSettled_idle heop)
  exact
    { seq := rfl
      ee := rfl
      inputs := by simp [hin]
      params := beginTick_params ..
      frame := beginTick_frame ..
      ev := beginTick_ev ..
      gie := beginTick_gie ..
      flash := by simp [flashController_idle hop]
      flashOp := by simpa [flashController_idle hop] using hop
      wf := eeprom_wf_beginTick hwf
      idle := fun h => by contradiction
      written := fun a => (congrArg (Memory.read eepromBlank · a) hee).trans (eepromByte_idle heop a).symm }

/-- A state with no flash operation reads FLASH as it stands, so every byte is as at the start. -/
theorem flashByte_eq (h : Writing f blocks s₀ v q k es s) (hop : s₀.flashOp = none) (a : Nat) :
    s.flashByte a = s₀.flashByte a := by
  rw [flashByte_idle h.flashOp, flashByte_idle hop, h.flash, h.params]

/-- EXIT_NP hands off to the persisted pointer (R194). -/
theorem handoff (h : Writing f blocks s₀ .exitNp .next k (e :: es) s) (hv : ParamsValid s₀.params) (hop : s₀.flashOp = none)
    (hq : e.event = .quiet) : ∃ t, step s = .next t ∧ HandedOff f blocks s₀ k es t := by
  have hb := h.beginTick
  have hnow := now_cons h.inputs
  obtain ⟨a, hstep⟩ := exitWithoutPersistHandsOff s (h.params ▸ hv) (hnow ▸ hq) h.seq h.flashOp
  rw [hnow, h.flashByte_eq hop, h.flashByte_eq hop, h.params] at hstep
  exact ⟨_, hstep, { hb with seq := rfl, hoValid := rfl, hoTarget := rfl, entryT := rfl }⟩

/-- After the handoff a tick only begins. -/
theorem after (h : Writing f blocks s₀ .halted q k (e :: es) s) (hv : ParamsValid s₀.params) (hq : e.event = .quiet) :
    step s = .next (s.beginTick e) := by
  have hnow := now_cons h.inputs
  rw [step_quiet (h.params ▸ hv) (hnow ▸ hq), ruleTick_elsewhere (by rw [h.seq]; rfl), hnow]

end Writing

/-- Settles O47: DECODE, the bytes' ticks, the tick that finds no byte to go, EXIT_NP, and one more tick, at which the last
write completes. -/
theorem writeEepromWritesAndHandsOff : Obligations.WriteEepromWritesAndHandsOff := by
  intro f s d nl ex fin blocks rest hv harr hop heop hseq hok hf hlen hblocks hin hq hfin
  have hfields : f = decodeFields s.frame := by
    have h := congrArg Instr.fields hf
    rw [decodeFrame, decodeCmd_fields] at h
    exact (Option.some.inj h).symm
  obtain ⟨hqd, hq⟩ := List.forall_mem_cons.mp hq
  obtain ⟨hqb, hqe⟩ := List.forall_mem_append.mp hq
  have hstart := Writing.start (blocks := blocks) (es := blocks.flatten ++ nl :: ex :: fin :: rest) hv harr.eeprom hop heop
    hseq hok hf (by simpa using hin) hqd
  obtain ⟨u, hrun, hu⟩ := Reaches.of_step hstart fun _ h₀ =>
    (h₀.bytes hv hfields hlen blocks List.drop_zero (Nat.zero_le _) hblocks hqb).trans (n := 2) fun _ h₁ =>
      .of_step (h₁.finish hv (hqe nl (by simp)) hlen) fun _ h₂ =>
        .of_step (h₂.handoff hv hop (hqe ex (by simp))) fun _ => .zero
  have hlast := hu.toWriting.after hv (hqe fin (by simp))
  have ht := hu.toWriting.beginTick
  have hidle : (u.beginTick fin).eepromOp = none := eepromOp_beginTick_free hfin
  refine ⟨u.beginTick fin, (run_add hrun 1).trans (run_succ hlast 0), ht.seq, ?_, ?_, ?_, hidle,
    fun a => ?_, ht.flashByte_eq hop, ht.ev, ht.gie, ht.inputs⟩
  · simpa using hu.hoValid
  · simpa using hu.hoTarget
  · simpa using hu.entryT
  · rw [eepromByte_idle hidle, ← eepromSettled_idle hidle, ht.written a, sequenceWrites_eq, hlen]

end Sys2Proof.Machine
end
